-- ==== Sys2Proof/Word.lean ====
section
/-! DEFINITION. The word types of the machine: bytes, 16-bit words and 12-bit addresses (00_scope.md R7, R8;
all values are unsigned, nothing is ever sign-extended). -/

namespace Sys2Proof

/-- One byte: a general register, a timer, a memory cell, the immediate `nn`. -/
abbrev Byte := BitVec 8

/-- 16 bits: an instruction word, `pc`, `I`, a stack slot, the keypad latch. -/
abbrev Word := BitVec 16

/-- The 12-bit address field `nnn` (30_encoding.md R71). -/
abbrev Addr12 := BitVec 12

/-- The number of a general register, 0x0 to 0xF (10_state.md R21). -/
abbrev RegNum := Fin 16

/-- `VF`, the register that doubles as the flag output (10_state.md R22). -/
abbrev flagReg : RegNum := 15

end Sys2Proof
end

