-- ==== Sys2Proof/Machine/Flags.lean ====
section
/-! DEFINITION. Every flag value that an instruction writes to `VF` (10_state.md R22, 41_alu.md R122). -/

namespace Sys2Proof.Machine

/-- A flag as the byte that `VF` receives: 1 or 0. -/
def flagByte (f : Bool) : Byte := if f then 1 else 0

/-- Carry of `a + b`: 1 exactly when the exact sum exceeds 255 (R116, R122). -/
def carryFlag (a b : Byte) : Byte := flagByte (decide (a.toNat + b.toNat > 255))

/-- Not-borrow of `a - b`: 1 exactly when `a >= b`, equality included (R117, R119, R122). -/
def notBorrowFlag (a b : Byte) : Byte := flagByte (decide (b.toNat ≤ a.toNat))

/-- The bit a right shift by one pushes out: `a & 1` (R118). -/
def shiftOutLow (a : Byte) : Byte := a &&& 1

/-- The bit a left shift by one pushes out: `a >> 7` (R120). -/
def shiftOutHigh (a : Byte) : Byte := a >>> 7

end Sys2Proof.Machine
end

