-- ==== Sys2Proof/Syntax.lean ====
section
/-! DEFINITION. The instruction set: one constructor per row of the opcode map (30_encoding.md R75).
Operands carry their own bounds, so an instruction that the encoding cannot hold cannot be written. -/

namespace Sys2Proof

/-- The 34 instructions of 30_encoding.md R75, in the order of `opcode_table.json`. -/
inductive Instr
  /-- 00E0 `CLS`: R160. -/
  | cls
  /-- 00EE `RET`: R90. -/
  | ret
  /-- 1nnn `JP nnn`: R91. -/
  | jp (nnn : Addr12)
  /-- 2nnn `CALL nnn`: R92. -/
  | call (nnn : Addr12)
  /-- 3xnn `SE Vx,nn`: R93. -/
  | seImm (x : RegNum) (nn : Byte)
  /-- 4xnn `SNE Vx,nn`: R94. -/
  | sneImm (x : RegNum) (nn : Byte)
  /-- 5xy0 `SE Vx,Vy`: R95. -/
  | seReg (x y : RegNum)
  /-- 6xnn `LD Vx,nn`: R110. -/
  | ldImm (x : RegNum) (nn : Byte)
  /-- 7xnn `ADD Vx,nn`: R111. -/
  | addImm (x : RegNum) (nn : Byte)
  /-- 8xy0 `LD Vx,Vy`: R112. -/
  | ldReg (x y : RegNum)
  /-- 8xy1 `OR Vx,Vy`: R113. -/
  | orReg (x y : RegNum)
  /-- 8xy2 `AND Vx,Vy`: R114. -/
  | andReg (x y : RegNum)
  /-- 8xy3 `XOR Vx,Vy`: R115. -/
  | xorReg (x y : RegNum)
  /-- 8xy4 `ADD Vx,Vy`: R116. -/
  | addReg (x y : RegNum)
  /-- 8xy5 `SUB Vx,Vy`: R117. -/
  | subReg (x y : RegNum)
  /-- 8xy6 `SHR Vx,Vy`: R118. -/
  | shr (x y : RegNum)
  /-- 8xy7 `SUBN Vx,Vy`: R119. -/
  | subn (x y : RegNum)
  /-- 8xyE `SHL Vx,Vy`: R120. -/
  | shl (x y : RegNum)
  /-- 9xy0 `SNE Vx,Vy`: R96. -/
  | sneReg (x y : RegNum)
  /-- Annn `LD I,nnn`: R141. -/
  | ldI (nnn : Addr12)
  /-- Bnnn `JP V0,nnn`: R97. -/
  | jpV0 (nnn : Addr12)
  /-- Cxnn `RND Vx,nn`: R121. -/
  | rnd (x : RegNum) (nn : Byte)
  /-- Dxyn `DRW Vx,Vy,n`, `n` rows: R161. -/
  | drw (x y : RegNum) (n : Fin 16)
  /-- Ex9E `SKP Vx`: R170. -/
  | skp (x : RegNum)
  /-- ExA1 `SKNP Vx`: R171. -/
  | sknp (x : RegNum)
  /-- Fx07 `LD Vx,DT`: R172. -/
  | ldVxDt (x : RegNum)
  /-- Fx0A `LD Vx,K`: R173. -/
  | ldVxK (x : RegNum)
  /-- Fx15 `LD DT,Vx`: R174. -/
  | ldDtVx (x : RegNum)
  /-- Fx18 `LD ST,Vx`: R175. -/
  | ldStVx (x : RegNum)
  /-- Fx1E `ADD I,Vx`: R142. -/
  | addI (x : RegNum)
  /-- Fx29 `LD F,Vx`: R143. -/
  | ldF (x : RegNum)
  /-- Fx33 `LD B,Vx`: R144. -/
  | ldB (x : RegNum)
  /-- Fx55 `LD [I],Vx`: R145. -/
  | storeRegs (x : RegNum)
  /-- Fx65 `LD Vx,[I]`: R146. -/
  | loadRegs (x : RegNum)
deriving DecidableEq, Repr

end Sys2Proof
end

