-- ==== Sys2Proof/Decode.lean ====
section
/-! DEFINITION. The decoder, total on all 65536 words (30_encoding.md R70-R77, R82), and after it the encoder, written
from the formats of R72. -/

namespace Sys2Proof

/-- Why a word or a byte sequence is no instruction: the groups of R76, and a sequence shorter than a word. -/
inductive DecodeReject
  /-- `0nnn` other than 00E0 and 00EE. -/
  | unrecognised0
  /-- `5xyn` with `n != 0`. -/
  | unrecognised5
  /-- `8xyn` with `n` in 8, 9, 0xA, 0xB, 0xC, 0xD, 0xF. -/
  | unrecognised8
  /-- `9xyn` with `n != 0`. -/
  | unrecognised9
  /-- `Exnn` with `nn` neither 0x9E nor 0xA1. -/
  | unrecognisedE
  /-- `Fxnn` with any other `nn`. -/
  | unrecognisedF
  /-- Fewer than two bytes: never from a fetch, which reads both (20_memory.md R55). -/
  | truncated
deriving DecidableEq, Repr

/-- `op = w[15:12]` (R71). -/
def fieldOp (w : Word) : BitVec 4 := w.extractLsb' 12 4

/-- `x = w[11:8]`, a register number (R71). -/
def fieldX (w : Word) : RegNum := (w.extractLsb' 8 4).toFin

/-- `y = w[7:4]`, a register number (R71). -/
def fieldY (w : Word) : RegNum := (w.extractLsb' 4 4).toFin

/-- `n = w[3:0]` (R71). -/
def fieldN (w : Word) : Fin 16 := (w.extractLsb' 0 4).toFin

/-- `nn = w[7:0]` (R71). -/
def fieldNn (w : Word) : Byte := w.extractLsb' 0 8

/-- `nnn = w[11:0]` (R71). -/
def fieldNnn (w : Word) : Addr12 := w.extractLsb' 0 12

/-- The word of two bytes, the first at the lower address: `high * 256 + low` (20_memory.md R54). -/
def wordOfBytes (high low : Byte) : Word := high ++ low

/-- Bits 15..8 of a word, the byte at the lower address (R54). -/
def highByte (w : Word) : Byte := w.extractLsb' 8 8

/-- Bits 7..0 of a word, the byte at the higher address (R54). -/
def lowByte (w : Word) : Byte := w.extractLsb' 0 8

/-- The 8xy_ group by its low nibble (R74, R82). -/
def decode8 (x y : RegNum) (n : Fin 16) : Except DecodeReject Instr :=
  if n = 0x0 then .ok (.ldReg x y)
  else if n = 0x1 then .ok (.orReg x y)
  else if n = 0x2 then .ok (.andReg x y)
  else if n = 0x3 then .ok (.xorReg x y)
  else if n = 0x4 then .ok (.addReg x y)
  else if n = 0x5 then .ok (.subReg x y)
  else if n = 0x6 then .ok (.shr x y)
  else if n = 0x7 then .ok (.subn x y)
  else if n = 0xE then .ok (.shl x y)
  else .error .unrecognised8

/-- The Fx__ group by its low byte (R74). -/
def decodeF (x : RegNum) (nn : Byte) : Except DecodeReject Instr :=
  if nn = 0x07 then .ok (.ldVxDt x)
  else if nn = 0x0A then .ok (.ldVxK x)
  else if nn = 0x15 then .ok (.ldDtVx x)
  else if nn = 0x18 then .ok (.ldStVx x)
  else if nn = 0x1E then .ok (.addI x)
  else if nn = 0x29 then .ok (.ldF x)
  else if nn = 0x33 then .ok (.ldB x)
  else if nn = 0x55 then .ok (.storeRegs x)
  else if nn = 0x65 then .ok (.loadRegs x)
  else .error .unrecognisedF

/-- The decode tree of R74. -/
def decodeWord (w : Word) : Except DecodeReject Instr :=
  if fieldOp w = 0x0 then
    if w = 0x00E0 then .ok .cls else if w = 0x00EE then .ok .ret else .error .unrecognised0
  else if fieldOp w = 0x1 then .ok (.jp (fieldNnn w))
  else if fieldOp w = 0x2 then .ok (.call (fieldNnn w))
  else if fieldOp w = 0x3 then .ok (.seImm (fieldX w) (fieldNn w))
  else if fieldOp w = 0x4 then .ok (.sneImm (fieldX w) (fieldNn w))
  else if fieldOp w = 0x5 then
    if fieldN w = 0 then .ok (.seReg (fieldX w) (fieldY w)) else .error .unrecognised5
  else if fieldOp w = 0x6 then .ok (.ldImm (fieldX w) (fieldNn w))
  else if fieldOp w = 0x7 then .ok (.addImm (fieldX w) (fieldNn w))
  else if fieldOp w = 0x8 then decode8 (fieldX w) (fieldY w) (fieldN w)
  else if fieldOp w = 0x9 then
    if fieldN w = 0 then .ok (.sneReg (fieldX w) (fieldY w)) else .error .unrecognised9
  else if fieldOp w = 0xA then .ok (.ldI (fieldNnn w))
  else if fieldOp w = 0xB then .ok (.jpV0 (fieldNnn w))
  else if fieldOp w = 0xC then .ok (.rnd (fieldX w) (fieldNn w))
  else if fieldOp w = 0xD then .ok (.drw (fieldX w) (fieldY w) (fieldN w))
  else if fieldOp w = 0xE then
    if fieldNn w = 0x9E then .ok (.skp (fieldX w))
    else if fieldNn w = 0xA1 then .ok (.sknp (fieldX w)) else .error .unrecognisedE
  else decodeF (fieldX w) (fieldNn w)

/-- Decoding of bytes as they stand in memory: the instruction and the bytes after it (R54, R70). -/
def decodeBytes : List Byte → Except DecodeReject (Instr × List Byte)
  | high :: low :: rest =>
    match decodeWord (wordOfBytes high low) with
    | .ok i => .ok (i, rest)
    | .error e => .error e
  | _ => .error .truncated

/-- The word that the low `nbits` bits of `w` are, numbered as `opcode_table.json` numbers them; every instruction is
one word, so bits above the sixteenth belong to no instruction (R70). -/
def tableWord (nbits w : Nat) : Word := BitVec.ofNat 16 (w % 2 ^ nbits)

/-- The instruction the decoder reads from a table word, laid out in memory order first. -/
def decodeTableWord (nbits w : Nat) : Option Instr :=
  match decodeBytes [highByte (tableWord nbits w), lowByte (tableWord nbits w)] with
  | .ok (i, _) => some i
  | .error _ => none

/-! The encoder: the formats of R72 and the rows of R75. -/

/-- The nibble that names a register or a row count. -/
def nibble (k : Fin 16) : BitVec 4 := BitVec.ofFin k

/-- Format `A`: `op`, `nnn`. -/
def wordA (op : BitVec 4) (nnn : Addr12) : Word := op ++ nnn

/-- Format `XI`: `op`, `x`, `nn`. -/
def wordXI (op : BitVec 4) (x : RegNum) (nn : Byte) : Word := op ++ nibble x ++ nn

/-- Formats `XY` (fixed low nibble) and `XYN` (low nibble `n`): `op`, `x`, `y`, low nibble. -/
def wordXYN (op : BitVec 4) (x y : RegNum) (low : Fin 16) : Word := op ++ nibble x ++ nibble y ++ nibble low

/-- The word of an instruction (R75). -/
def encode : Instr → Word
  | .cls => 0x00E0
  | .ret => 0x00EE
  | .jp nnn => wordA 0x1 nnn
  | .call nnn => wordA 0x2 nnn
  | .seImm x nn => wordXI 0x3 x nn
  | .sneImm x nn => wordXI 0x4 x nn
  | .seReg x y => wordXYN 0x5 x y 0x0
  | .ldImm x nn => wordXI 0x6 x nn
  | .addImm x nn => wordXI 0x7 x nn
  | .ldReg x y => wordXYN 0x8 x y 0x0
  | .orReg x y => wordXYN 0x8 x y 0x1
  | .andReg x y => wordXYN 0x8 x y 0x2
  | .xorReg x y => wordXYN 0x8 x y 0x3
  | .addReg x y => wordXYN 0x8 x y 0x4
  | .subReg x y => wordXYN 0x8 x y 0x5
  | .shr x y => wordXYN 0x8 x y 0x6
  | .subn x y => wordXYN 0x8 x y 0x7
  | .shl x y => wordXYN 0x8 x y 0xE
  | .sneReg x y => wordXYN 0x9 x y 0x0
  | .ldI nnn => wordA 0xA nnn
  | .jpV0 nnn => wordA 0xB nnn
  | .rnd x nn => wordXI 0xC x nn
  | .drw x y n => wordXYN 0xD x y n
  | .skp x => wordXI 0xE x 0x9E
  | .sknp x => wordXI 0xE x 0xA1
  | .ldVxDt x => wordXI 0xF x 0x07
  | .ldVxK x => wordXI 0xF x 0x0A
  | .ldDtVx x => wordXI 0xF x 0x15
  | .ldStVx x => wordXI 0xF x 0x18
  | .addI x => wordXI 0xF x 0x1E
  | .ldF x => wordXI 0xF x 0x29
  | .ldB x => wordXI 0xF x 0x33
  | .storeRegs x => wordXI 0xF x 0x55
  | .loadRegs x => wordXI 0xF x 0x65

/-- The two bytes of an instruction in memory order (R54). -/
def encodeBytes (i : Instr) : List Byte := [highByte (encode i), lowByte (encode i)]

/-! The opcode map as rows (R75): a word selects a row when `(w & mask) == match`. -/

/-- One row of the map. -/
structure OpcodeRow where
  matchBits : Word
  mask : Word
deriving DecidableEq, Repr

/-- A word selects the row (R74, R75). -/
def OpcodeRow.selects (r : OpcodeRow) (w : Word) : Bool := decide (w &&& r.mask = r.matchBits)

/-- The row of an instruction: match and mask of R75. -/
def Instr.row : Instr → OpcodeRow
  | .cls => ⟨0x00E0, 0xFFFF⟩
  | .ret => ⟨0x00EE, 0xFFFF⟩
  | .jp _ => ⟨0x1000, 0xF000⟩
  | .call _ => ⟨0x2000, 0xF000⟩
  | .seImm _ _ => ⟨0x3000, 0xF000⟩
  | .sneImm _ _ => ⟨0x4000, 0xF000⟩
  | .seReg _ _ => ⟨0x5000, 0xF00F⟩
  | .ldImm _ _ => ⟨0x6000, 0xF000⟩
  | .addImm _ _ => ⟨0x7000, 0xF000⟩
  | .ldReg _ _ => ⟨0x8000, 0xF00F⟩
  | .orReg _ _ => ⟨0x8001, 0xF00F⟩
  | .andReg _ _ => ⟨0x8002, 0xF00F⟩
  | .xorReg _ _ => ⟨0x8003, 0xF00F⟩
  | .addReg _ _ => ⟨0x8004, 0xF00F⟩
  | .subReg _ _ => ⟨0x8005, 0xF00F⟩
  | .shr _ _ => ⟨0x8006, 0xF00F⟩
  | .subn _ _ => ⟨0x8007, 0xF00F⟩
  | .shl _ _ => ⟨0x800E, 0xF00F⟩
  | .sneReg _ _ => ⟨0x9000, 0xF00F⟩
  | .ldI _ => ⟨0xA000, 0xF000⟩
  | .jpV0 _ => ⟨0xB000, 0xF000⟩
  | .rnd _ _ => ⟨0xC000, 0xF000⟩
  | .drw _ _ _ => ⟨0xD000, 0xF000⟩
  | .skp _ => ⟨0xE09E, 0xF0FF⟩
  | .sknp _ => ⟨0xE0A1, 0xF0FF⟩
  | .ldVxDt _ => ⟨0xF007, 0xF0FF⟩
  | .ldVxK _ => ⟨0xF00A, 0xF0FF⟩
  | .ldDtVx _ => ⟨0xF015, 0xF0FF⟩
  | .ldStVx _ => ⟨0xF018, 0xF0FF⟩
  | .addI _ => ⟨0xF01E, 0xF0FF⟩
  | .ldF _ => ⟨0xF029, 0xF0FF⟩
  | .ldB _ => ⟨0xF033, 0xF0FF⟩
  | .storeRegs _ => ⟨0xF055, 0xF0FF⟩
  | .loadRegs _ => ⟨0xF065, 0xF0FF⟩

end Sys2Proof
end

