-- ==== Sys2Proof/Machine/Font.lean ====
section
/-! DEFINITION. The default font table (20_memory.md R52). Glyph 5 is the document's own (bytes 25 to 29);
the other 75 bytes are the spec's general-knowledge default (UNVERIFIED, notes/assumptions/6.md). -/

namespace Sys2Proof.Machine

/-- Where the font stands: 0x050 (R51). -/
def fontBase : Nat := 0x050

/-- Its size, 16 glyphs of 5 bytes (R51, R52). -/
def fontSize : Nat := 80

/-- Glyphs 0 to 7 of R52, five rows each. -/
def fontLow : List Byte :=
  [0xF0, 0x90, 0x90, 0x90, 0xF0,   0x20, 0x60, 0x20, 0x20, 0x70,   0xF0, 0x10, 0xF0, 0x80, 0xF0,
   0xF0, 0x10, 0xF0, 0x10, 0xF0,   0x90, 0x90, 0xF0, 0x10, 0x10,   0xF0, 0x80, 0xF0, 0x10, 0xF0,
   0xF0, 0x80, 0xF0, 0x90, 0xF0,   0xF0, 0x10, 0x20, 0x40, 0x40]

/-- Glyphs 8 to F of R52, five rows each. -/
def fontHigh : List Byte :=
  [0xF0, 0x90, 0xF0, 0x90, 0xF0,   0xF0, 0x90, 0xF0, 0x10, 0xF0,   0xF0, 0x90, 0xF0, 0x90, 0x90,
   0xE0, 0x90, 0xE0, 0x90, 0xE0,   0xF0, 0x80, 0x80, 0x80, 0xF0,   0xE0, 0x90, 0x90, 0x90, 0xE0,
   0xF0, 0x80, 0xF0, 0x80, 0xF0,   0xF0, 0x80, 0xF0, 0x80, 0x80]

/-- The default value of the parameter `FONT`: 80 bytes (R52). -/
def standardFont : Vector Byte 80 := ⟨(fontLow ++ fontHigh).toArray, by decide⟩

end Sys2Proof.Machine
end

