-- ==== Sys2Proof/Config.lean ====
section
/-! DEFINITION. What one instance of the block fixes (00_scope.md R6, 10_state.md R38), and the free values the host
supplies at the ports. The parameters stand in `State.params`, so a statement about every state is one about every
parameter value (notes/assumptions/5.md). -/

namespace Sys2Proof

/-- Which register 8xy6 and 8xyE shift (41_alu.md R118, R120). -/
inductive ShiftSrc
  | x | y
deriving DecidableEq, Repr

/-- The parameters of R6 that a rule of the step relation reads. -/
structure Config where
  /-- Instruction slots per frame tick (45_timers_and_scheduler.md R196). -/
  ipt : Nat
  /-- Which register 8xy6 and 8xyE shift (R118). -/
  shiftSrc : ShiftSrc
  /-- Contents of 0x050..0x09F after reset, 80 bytes (20_memory.md R52). -/
  font : Vector Byte 80
  /-- Where the load port places the first program byte (20_memory.md R66). -/
  loadOffset : Nat
deriving DecidableEq, Repr

/-- The defaults of the table of R6. -/
def Config.default : Config where
  ipt := 10
  shiftSrc := .x
  font := Machine.standardFont
  loadOffset := 0x200

/-- What R6 and R52 ask of the parameters: font bytes 25..29 are the document's glyph 5, the offset is in
0x000..0x1000. -/
def Config.wf (c : Config) : Bool :=
  decide ((c.font.toList.drop 25).take 5 = [0xF0, 0x80, 0xF0, 0x10, 0xF0]) && decide (c.loadOffset ≤ 0x1000)

/-- FREE VALUE: the keypad state the host shows at tick `n` when State lists none for it (R199; entry 3). -/
opaque Config.freeKeys : Nat → Word

/-- FREE VALUE: the byte the random source gives at the `n`-th executed Cxnn when State lists none for it
(41_alu.md R121, 45_timers_and_scheduler.md R205; entry 4). -/
opaque Config.freeRnd : Nat → Byte

end Sys2Proof
end

