-- ==== Sys2Proof/Machine/State.lean ====
section
/-! DEFINITION. The state aggregate (10_state.md R20), the reasons a step can stop, and the state after reset (R36). -/

namespace Sys2Proof.Machine

/-- The run status (R30). -/
inductive Status
  /-- The next slot executes the instruction at `pc`. -/
  | running
  /-- The instruction at `pc` is an Fx0A that found no key. -/
  | awaitingKey
  /-- A fatal program error has happened: nothing executes until reset. -/
  | halted
deriving DecidableEq, Repr

/-- The recorded cause of the halt (R31, 60_exceptions.md R220). -/
inductive FaultCause
  | none
  | stackOverflow
  | stackUnderflow
  | fetchOutOfBounds
  | dataAccessOutOfBounds
deriving DecidableEq, Repr

/-- Main memory: the cells that differ from their reset content, addresses strictly rising
(`Memory.wf`, Machine/Memory.lean). -/
abbrev Memory := List Host.Cell

/-- The pixel grid, `display[py][px]` (R29). -/
abbrev Display := Vector (Vector Bool 64) 32

/-- An input port of `w` bits (R37): the values the host has supplied and the machine has not yet sampled, oldest
first, and how many samples have been taken. MODEL's own form of the streams of 00_scope.md R6. -/
structure InPort (w : Nat) where
  pending : List (BitVec w)
  drawn : Nat
deriving DecidableEq, Repr

/-- How far the boot sequence has come (70_reset_and_hazards.md R251). MODEL's own. -/
inductive BootPhase
  /-- After reset: the load port is open. -/
  | awaitingLoad
  /-- The one load has been made, no frame tick has begun. -/
  | loaded
  /-- A frame tick has begun: the load port is closed. -/
  | ticking
deriving DecidableEq, Repr

/-- The whole state. The first fourteen fields are the rows of R20; the last five are the MODEL's own
(INVENTORY.md, State; notes/assumptions/2.md to 5.md and 23.md). -/
structure State where
  /-- `V[0..15]` (R21); `V[15]` is also the flag output (R22). -/
  v : Vector Byte 16
  /-- The program counter (R23). -/
  pc : Word
  /-- `I`, the index register (R24). -/
  i : Word
  /-- The return stack (R25). -/
  stack : Vector Word 16
  /-- The stack pointer, the next free slot, 0 to 16 (R26). -/
  sp : Fin 17
  /-- `DT`, the delay timer (R27). -/
  dt : Byte
  /-- `ST`, the sound timer (R28). -/
  st : Byte
  /-- Main memory (20_memory.md R50). -/
  memory : Memory
  /-- The display (R29). -/
  display : Display
  /-- The run status (R30). -/
  status : Status
  /-- The fault record: the condition (R31). -/
  faultCause : FaultCause
  /-- The fault record: the address (R31). -/
  faultAddr : Word
  /-- The key latch, bit `k` is key `k` (R32). -/
  keys : Word
  /-- The tone latch (R33). -/
  tone : Bool
  /-- MODEL: the parameters of this machine; nothing writes them (R38). -/
  params : Config
  /-- MODEL: instruction slots already used in the current frame tick (R34, 45_timers_and_scheduler.md R195). -/
  slot : Nat
  /-- MODEL: the port `keys_in`, sampled once per frame tick (R199). -/
  keysIn : InPort 16
  /-- MODEL: the port `rnd`, sampled once per executed Cxnn (R205). -/
  rndIn : InPort 8
  /-- MODEL: how far the boot sequence has come (70_reset_and_hazards.md R251). -/
  phase : BootPhase
deriving DecidableEq, Repr

/-- Why the machine stops outside the spec's own faults, which are states (60_exceptions.md R226). -/
inductive Fault
  /-- A memory primitive used at an address above 0xFFF, which does not exist (20_memory.md R57). Raised by
  `withLoad`, `withStore` and `State.load`; `CheckRange` and the load port's size check keep every use of them from
  reaching it. Safe. -/
  | addressOutsideMemory (a : Nat)
deriving DecidableEq, Repr

/-- What the model gives no meaning. -/
inductive Refusal
  /-- An instruction without a meaning; no arm of `exec` raises it. Safe. -/
  | notModelled (mnemonic : String)
  /-- A load after the first frame tick or after an earlier load: the port's precondition, "refuse"
  (93_implementation_defined.md U21). Raised by `State.load`, never by a step. Safe. -/
  | loadOutOfSequence
deriving DecidableEq, Repr

/-- What a step or an instruction answers. -/
abbrev Result := Host.Outcome State Fault Refusal

/-- The machine right after reset with the default parameters (R36, 70_reset_and_hazards.md R250): the font is in
place because an unlisted cell reads as its reset content. -/
def State.reset : State where
  v := Vector.replicate 16 0
  pc := 0x0200
  i := 0
  stack := Vector.replicate 16 0
  sp := 0
  dt := 0
  st := 0
  memory := []
  display := Vector.replicate 32 (Vector.replicate 64 false)
  status := .running
  faultCause := .none
  faultAddr := 0
  keys := 0
  tone := false
  params := Config.default
  slot := 0
  keysIn := ⟨[], 0⟩
  rndIn := ⟨[], 0⟩
  phase := .awaitingLoad

end Sys2Proof.Machine
end

