-- ==== Sys2Proof/Machine/Memory.lean ====
section
/-! DEFINITION. The 4096-byte main memory (20_memory.md R50-R58): plain reads and writes of the canonical list, the
one-byte primitives MemRead and MemWrite, runs of them, and the instruction fetch. -/

namespace Sys2Proof.Machine

/-- The number of addresses, 0x000 to 0xFFF (R50). -/
def memorySize : Nat := 0x1000

/-- What an unlisted address reads as: its content after reset with the default FONT (10_state.md R36, R68). -/
def Memory.unlisted (a : Nat) : Byte :=
  if h : fontBase ≤ a ∧ a < fontBase + 80 then standardFont[a - fontBase]'(by omega) else 0

/-- Put a cell before a memory, unless it holds what the address reads as anyway. -/
def Memory.cell (a : Nat) (b : Byte) (m : Memory) : Memory :=
  if b = Memory.unlisted a then m else (a, b) :: m

/-- The byte at an address. -/
def Memory.read : Memory → Nat → Byte
  | [], a => Memory.unlisted a
  | (c, b) :: rest, a => if a = c then b else Memory.read rest a

/-- Set the byte at an address, keeping the form of `Memory.wf`. -/
def Memory.write : Memory → Nat → Byte → Memory
  | [], a, b => Memory.cell a b []
  | (c, d) :: rest, a, b =>
    if a < c then Memory.cell a b ((c, d) :: rest)
    else if a = c then Memory.cell a b rest
    else (c, d) :: Memory.write rest a b

/-- Addresses rise strictly from `lo` on and exist, and no cell holds what its address reads as anyway. -/
def Memory.wfFrom : Nat → Memory → Bool
  | _, [] => true
  | lo, (a, b) :: rest =>
    decide (lo ≤ a) && decide (a < memorySize) && decide (b ≠ Memory.unlisted a) && Memory.wfFrom (a + 1) rest

/-- The canonical form: equal contents are equal lists. -/
def Memory.wf (m : Memory) : Bool := Memory.wfFrom 0 m

/-- `MemRead(a, 1)`: one byte, at an address that exists (R57). -/
def Memory.load1 (m : Memory) (a : Nat) : Option Byte := if a < memorySize then some (m.read a) else none

/-- `MemWrite(a, 1, b)`: one byte, at an address that exists (R57); no region is protected (R53). -/
def Memory.store1 (m : Memory) (a : Nat) (b : Byte) : Option Memory :=
  if a < memorySize then some (m.write a b) else none

/-- `len` bytes at rising addresses, one MemRead each (R57, R59). -/
def Memory.loadN (m : Memory) : Nat → Nat → Option (List Byte)
  | _, 0 => some []
  | a, len + 1 => (m.load1 a).bind fun b => (m.loadN (a + 1) len).map (b :: ·)

/-- The bytes of a list at rising addresses, one MemWrite each (R57, R59). -/
def Memory.storeN : Memory → Nat → List Byte → Option Memory
  | m, _, [] => some m
  | m, a, b :: rest => (m.store1 a b).bind fun m' => m'.storeN (a + 1) rest

/-- `Fetch(a)`: the big-endian word of the bytes at `a` and `a + 1`, when both exist; `none` for `a > 0xFFE`, which is
FetchOutOfBounds. The check is on the full 16-bit address and any parity is legal (R54, R55, R56). -/
def Memory.fetch (m : Memory) (a : Word) : Option Word :=
  if a.toNat ≤ 0xFFE then some (wordOfBytes (m.read a.toNat) (m.read (a.toNat + 1))) else none

/-- `CheckRange(a, len)` passes: it raises exactly when `len > 0` and `a + len - 1 > 0xFFF`, the sum exact (R58). -/
def rangeOk (a : Word) (len : Nat) : Bool := !(decide (0 < len) && decide (a.toNat + len - 1 > 0xFFF))

end Sys2Proof.Machine
end

