-- ==== Sys2Proof/Machine/Operands.lean ====
section
/-! DEFINITION. Every operand form: register operands, the shifted register, zero-extended immediates, the index
addresses, the key an instruction selects, and the samples of the input ports. -/

namespace Sys2Proof.Machine

/-- `V[r]`, read as its full 8-bit value; all sixteen are ordinary (10_state.md R21, 30_encoding.md R73). -/
def State.reg (s : State) (r : RegNum) : Byte := s.v[r]

/-- The register 8xy6 and 8xyE shift: `V[y]` when `SHIFT_SRC = Y`, else `V[x]` (41_alu.md R118, R120). -/
def State.shiftOperand (s : State) (x y : RegNum) : Byte :=
  match s.params.shiftSrc with
  | .x => s.reg x
  | .y => s.reg y

/-- `zext_16(nnn)` (30_encoding.md R73). -/
def addrOperand (nnn : Addr12) : Word := nnn.zeroExtend 16

/-- `zext_16(V[r])`. -/
def State.regWord (s : State) (r : RegNum) : Word := (s.reg r).zeroExtend 16

/-- `V[0] .. V[x]`, the operand of Fx55 (42_index_and_memory.md R145). -/
def State.regsUpTo (s : State) (x : RegNum) : List Byte := s.v.toList.take (x.val + 1)

/-- Address of glyph `V[r]`: `0x50 + 5 * V[r]`, the whole byte, no masking (42_index_and_memory.md R143). -/
def State.glyphAddr (s : State) (r : RegNum) : Word := 0x0050 + s.regWord r * 5

/-- Hundreds, tens and ones of a byte, most significant first (42_index_and_memory.md R144). -/
def decimalDigits (a : Byte) : List Byte :=
  [BitVec.ofNat 8 (a.toNat / 100), BitVec.ofNat 8 (a.toNat / 10 % 10), BitVec.ofNat 8 (a.toNat % 10)]

/-- The key number that `V[x]` selects: its low nibble (44_keypad_and_timer_instructions.md R176). -/
def State.keyNumber (s : State) (x : RegNum) : Nat := (s.reg x).toNat % 16

/-- `keys[k] == 1` in the latch (10_state.md R32). -/
def State.keyDown (s : State) (k : Nat) : Bool := s.keys.getLsbD k

/-- The lowest-numbered key that is down in `keys`, none when `keys == 0` (R173). -/
def lowestKey (keys : Word) : Option RegNum := (List.finRange 16).find? fun k => keys.getLsbD k.val

/-- Sprite anchor column: `V[x] mod 64` (43_display.md R161). -/
def State.anchorX (s : State) (x : RegNum) : Nat := (s.reg x).toNat % 64

/-- Sprite anchor row: `V[y] mod 32` (43_display.md R161). -/
def State.anchorY (s : State) (y : RegNum) : Nat := (s.reg y).toNat % 32

/-- The next sample of a port: the oldest supplied value, else the free value of this draw. -/
def InPort.sample {w : Nat} (free : Nat → BitVec w) (p : InPort w) : BitVec w :=
  match p.pending with
  | [] => free p.drawn
  | b :: _ => b

/-- The port after a sample. -/
def InPort.advance {w : Nat} (p : InPort w) : InPort w := ⟨p.pending.tail, p.drawn + 1⟩

/-- The value `keys_in` shows at the next step (a) (45_timers_and_scheduler.md R199). -/
def State.nextKeys (s : State) : Word := s.keysIn.sample Config.freeKeys

/-- The value `rnd` shows to the next executed Cxnn (45_timers_and_scheduler.md R205). -/
def State.nextRnd (s : State) : Byte := s.rndIn.sample Config.freeRnd

end Sys2Proof.Machine
end

