-- ==== Sys2Proof/Machine/Ops.lean ====
section
/-! DEFINITION. The shared operations of the instruction meanings: register writes, the program counter, the stack,
guarded runs of memory accesses, and `raise`, the one way a fatal program error is taken (60_exceptions.md R226).
There is no return from it: only reset leaves the halt (R228). -/

namespace Sys2Proof.Machine

/-- `V[r] <- b` (10_state.md R21). -/
def State.setReg (s : State) (r : RegNum) (b : Byte) : State := { s with v := s.v.set r.val b r.isLt }

/-- `V[r], V[r+1], ...` receive the bytes of the list, in that order (42_index_and_memory.md R146). -/
def State.setRegsFrom (s : State) : Nat → List Byte → State
  | _, [] => s
  | r, b :: rest => if h : r < 16 then (s.setReg ⟨r, h⟩ b).setRegsFrom (r + 1) rest else s

/-- `pc <- target` (30_encoding.md R78). -/
def State.goto (s : State) (target : Word) : State := { s with pc := target }

/-- `pc <- pc0 + 2`, the advance (R78). -/
def State.advance (s : State) : State := s.goto (s.pc + 2)

/-- `pc <- (c ? pc0 + 4 : pc0 + 2)` (40_control_transfer.md R93, R98). -/
def State.skipIf (s : State) (c : Bool) : State := s.goto (if c then s.pc + 4 else s.pc + 2)

/-- `V[x] <- t`, then `V[0xF] <- f`, then the advance: the flag is written last (41_alu.md R123). -/
def State.writeFlagged (s : State) (x : RegNum) (t f : Byte) : State :=
  ((s.setReg x t).setReg flagReg f).advance

/-- `raise <cause>(pc0)`: the fault record and the status, nothing else (60_exceptions.md R222, R226). -/
def State.raise (s : State) (cause : FaultCause) : State :=
  { s with faultCause := cause, faultAddr := s.pc, status := .halted }

/-- Push a return address: `stack[sp] <- ret; sp <- sp + 1`; none when `sp == 16` (40_control_transfer.md R92). -/
def State.push (s : State) (ret : Word) : Option State :=
  if h : s.sp.val < 16 then
    some { s with stack := s.stack.set s.sp.val ret h, sp := ⟨s.sp.val + 1, by omega⟩ }
  else none

/-- Pop a return address: `sp <- sp - 1`, then `stack[sp]`, the slot kept; none when `sp == 0`
(40_control_transfer.md R90, 10_state.md R25). -/
def State.pop (s : State) : Option (Word × State) :=
  if h : 0 < s.sp.val then
    some (s.stack[s.sp.val - 1]'(by omega), { s with sp := ⟨s.sp.val - 1, by omega⟩ })
  else none

/-- Read `len` bytes at `I` after `CheckRange(I, len)` and go on with them; the check failing raises
DataAccessOutOfBounds before any effect (20_memory.md R58, R59). -/
def withLoad (len : Nat) (s : State) (k : List Byte → State) : Result :=
  if rangeOk s.i len then
    match s.memory.loadN s.i.toNat len with
    | some bytes => .next (k bytes)
    | none => .fault (.addressOutsideMemory s.i.toNat)
  else .next (s.raise .dataAccessOutOfBounds)

/-- Store the bytes at `I` after `CheckRange(I, len)` over all of them, then advance; the check failing raises
DataAccessOutOfBounds before any effect (20_memory.md R58, R59). -/
def withStore (bytes : List Byte) (s : State) : Result :=
  if rangeOk s.i bytes.length then
    match s.memory.storeN s.i.toNat bytes with
    | some m => .next { s with memory := m }.advance
    | none => .fault (.addressOutsideMemory s.i.toNat)
  else .next (s.raise .dataAccessOutOfBounds)

/-- The numeric code of a cause (60_exceptions.md R221); no program can read it. -/
def FaultCause.code : FaultCause → Nat
  | .none => 0
  | .stackOverflow => 1
  | .stackUnderflow => 2
  | .fetchOutOfBounds => 3
  | .dataAccessOutOfBounds => 4

end Sys2Proof.Machine
end

