-- ==== Sys2Proof/Machine/Alu.lean ====
section
/-! DEFINITION. Register load, arithmetic, logic, shift and random instructions (41_alu.md R110-R123). -/

namespace Sys2Proof.Machine

/-- 6xnn `LD Vx,nn` (R110). -/
def execLdImm (x : RegNum) (nn : Byte) (s : State) : Result := .next (s.setReg x nn).advance

/-- 7xnn `ADD Vx,nn`: wraps, no flag (R111). -/
def execAddImm (x : RegNum) (nn : Byte) (s : State) : Result := .next (s.setReg x (s.reg x + nn)).advance

/-- 8xy0 `LD Vx,Vy` (R112). -/
def execLdReg (x y : RegNum) (s : State) : Result := .next (s.setReg x (s.reg y)).advance

/-- 8xy1 `OR Vx,Vy`: no flag (R113). -/
def execOrReg (x y : RegNum) (s : State) : Result := .next (s.setReg x (s.reg x ||| s.reg y)).advance

/-- 8xy2 `AND Vx,Vy`: no flag (R114). -/
def execAndReg (x y : RegNum) (s : State) : Result := .next (s.setReg x (s.reg x &&& s.reg y)).advance

/-- 8xy3 `XOR Vx,Vy`: no flag (R115). -/
def execXorReg (x y : RegNum) (s : State) : Result := .next (s.setReg x (s.reg x ^^^ s.reg y)).advance

/-- 8xy4 `ADD Vx,Vy`: carry to `VF` (R116). -/
def execAddReg (x y : RegNum) (s : State) : Result :=
  .next (s.writeFlagged x (s.reg x + s.reg y) (carryFlag (s.reg x) (s.reg y)))

/-- 8xy5 `SUB Vx,Vy`: `V[x] - V[y]`, not-borrow to `VF` (R117). -/
def execSubReg (x y : RegNum) (s : State) : Result :=
  .next (s.writeFlagged x (s.reg x - s.reg y) (notBorrowFlag (s.reg x) (s.reg y)))

/-- 8xy6 `SHR Vx,Vy` (R118). -/
def execShr (x y : RegNum) (s : State) : Result :=
  .next (s.writeFlagged x (s.shiftOperand x y >>> 1) (shiftOutLow (s.shiftOperand x y)))

/-- 8xy7 `SUBN Vx,Vy`: `V[y] - V[x]`, not-borrow to `VF` (R119). -/
def execSubn (x y : RegNum) (s : State) : Result :=
  .next (s.writeFlagged x (s.reg y - s.reg x) (notBorrowFlag (s.reg y) (s.reg x)))

/-- 8xyE `SHL Vx,Vy` (R120). -/
def execShl (x y : RegNum) (s : State) : Result :=
  .next (s.writeFlagged x (s.shiftOperand x y <<< 1) (shiftOutHigh (s.shiftOperand x y)))

/-- Cxnn `RND Vx,nn`: one sample of `rnd`, ANDed with `nn` (R121). -/
def execRnd (x : RegNum) (nn : Byte) (s : State) : Result :=
  .next ({ s with rndIn := s.rndIn.advance }.setReg x (s.nextRnd &&& nn)).advance

end Sys2Proof.Machine
end

