-- ==== Sys2Proof/Machine/Control.lean ====
section
/-! DEFINITION. Control transfer: RET, JP, CALL, SE, SNE, JP V0 (40_control_transfer.md R90-R98). -/

namespace Sys2Proof.Machine

/-- 00EE `RET` (R90). -/
def execRet (s : State) : Result :=
  match s.pop with
  | some (target, t) => .next (t.goto target)
  | none => .next (s.raise .stackUnderflow)

/-- 1nnn `JP nnn` (R91). -/
def execJp (nnn : Addr12) (s : State) : Result := .next (s.goto (addrOperand nnn))

/-- 2nnn `CALL nnn` (R92). -/
def execCall (nnn : Addr12) (s : State) : Result :=
  match s.push (s.pc + 2) with
  | some t => .next (t.goto (addrOperand nnn))
  | none => .next (s.raise .stackOverflow)

/-- 3xnn `SE Vx,nn` (R93). -/
def execSeImm (x : RegNum) (nn : Byte) (s : State) : Result := .next (s.skipIf (decide (s.reg x = nn)))

/-- 4xnn `SNE Vx,nn` (R94). -/
def execSneImm (x : RegNum) (nn : Byte) (s : State) : Result := .next (s.skipIf (decide (s.reg x ≠ nn)))

/-- 5xy0 `SE Vx,Vy` (R95). -/
def execSeReg (x y : RegNum) (s : State) : Result := .next (s.skipIf (decide (s.reg x = s.reg y)))

/-- 9xy0 `SNE Vx,Vy` (R96). -/
def execSneReg (x y : RegNum) (s : State) : Result := .next (s.skipIf (decide (s.reg x ≠ s.reg y)))

/-- Bnnn `JP V0,nnn`: the sum in full, not reduced to 12 bits (R97). -/
def execJpV0 (nnn : Addr12) (s : State) : Result := .next (s.goto (addrOperand nnn + s.regWord 0))

end Sys2Proof.Machine
end

