-- ==== Sys2Proof/Machine/IndexMemory.lean ====
section
/-! DEFINITION. Index-register and memory instructions (42_index_and_memory.md R140-R146). -/

namespace Sys2Proof.Machine

/-- Annn `LD I,nnn` (R141). -/
def execLdI (nnn : Addr12) (s : State) : Result := .next { s with i := addrOperand nnn }.advance

/-- Fx1E `ADD I,Vx`: wraps at 16 bits, no flag (R142). -/
def execAddI (x : RegNum) (s : State) : Result := .next { s with i := s.i + s.regWord x }.advance

/-- Fx29 `LD F,Vx` (R143). -/
def execLdF (x : RegNum) (s : State) : Result := .next { s with i := s.glyphAddr x }.advance

/-- Fx33 `LD B,Vx` (R144). -/
def execLdB (x : RegNum) (s : State) : Result := withStore (decimalDigits (s.reg x)) s

/-- Fx55 `LD [I],Vx`: `I` unchanged (R140, R145). -/
def execStoreRegs (x : RegNum) (s : State) : Result := withStore (s.regsUpTo x) s

/-- Fx65 `LD Vx,[I]`: `I` unchanged (R140, R146). -/
def execLoadRegs (x : RegNum) (s : State) : Result :=
  withLoad (x.val + 1) s fun bytes => (s.setRegsFrom 0 bytes).advance

end Sys2Proof.Machine
end

