-- ==== Sys2Proof/Machine/KeypadTimer.lean ====
section
/-! DEFINITION. Keypad and timer instructions (44_keypad_and_timer_instructions.md R170-R176). -/

namespace Sys2Proof.Machine

/-- Ex9E `SKP Vx` (R170). -/
def execSkp (x : RegNum) (s : State) : Result := .next (s.skipIf (s.keyDown (s.keyNumber x)))

/-- ExA1 `SKNP Vx` (R171). -/
def execSknp (x : RegNum) (s : State) : Result := .next (s.skipIf (!s.keyDown (s.keyNumber x)))

/-- Fx07 `LD Vx,DT` (R172). -/
def execLdVxDt (x : RegNum) (s : State) : Result := .next (s.setReg x s.dt).advance

/-- One poll of Fx0A: the lowest key that is down completes it, no key leaves it waiting at the same `pc` (R173). -/
def State.pollForKey (s : State) (x : RegNum) : State :=
  match lowestKey s.keys with
  | some k => ({ s with status := .running }.setReg x (BitVec.ofNat 8 k.val)).advance
  | none => { s with status := .awaitingKey }

/-- Fx0A `LD Vx,K` (R173). -/
def execLdVxK (x : RegNum) (s : State) : Result := .next (s.pollForKey x)

/-- Fx15 `LD DT,Vx` (R174). -/
def execLdDtVx (x : RegNum) (s : State) : Result := .next { s with dt := s.reg x }.advance

/-- Fx18 `LD ST,Vx`: the tone latch waits for the next step (d) (R175). -/
def execLdStVx (x : RegNum) (s : State) : Result := .next { s with st := s.reg x }.advance

end Sys2Proof.Machine
end

