-- ==== Sys2Proof/Machine/Screen.lean ====
section
/-! DEFINITION. The display instructions and the sprite-blit XOR compositor (43_display.md R160-R165). -/

namespace Sys2Proof.Machine

/-- `display[py][px]`; no pixel exists outside 64 columns by 32 rows (R162). -/
def Display.pixel (d : Display) (px py : Nat) : Bool :=
  if h : py < 32 ∧ px < 64 then (d[py]'h.1)[px]'h.2 else false

/-- `display[py][px] <- b`. -/
def Display.setPixel (d : Display) (px py : Nat) (b : Bool) : Display :=
  if h : py < 32 ∧ px < 64 then d.set py ((d[py]'h.1).set px b h.2) h.1 else d

/-- Every pixel clear (R160). -/
def blankDisplay : Display := Vector.replicate 32 (Vector.replicate 64 false)

/-- What a sprite draw carries along: the display and whether a set pixel has been cleared. -/
structure Blit where
  display : Display
  hit : Bool
deriving DecidableEq, Repr

/-- A sprite bit of 1 at `(px, py)`: a set pixel is cleared and counts as a collision, a clear one is set (R161). -/
def Blit.flip (b : Blit) (px py : Nat) : Blit :=
  if b.display.pixel px py then ⟨b.display.setPixel px py false, true⟩ else ⟨b.display.setPixel px py true, b.hit⟩

/-- The columns of one sprite row from `px` on, `left` of them to go: column `c = 8 - left` is bit `7 - c = left - 1`
of the byte; the row stops at the right edge (R161, R162). -/
def blitColumns (sprite : Byte) (py : Nat) : Nat → Nat → Blit → Blit
  | _, 0, b => b
  | px, left + 1, b =>
    if 64 ≤ px then b
    else blitColumns sprite py (px + 1) left (if sprite.getLsbD left then b.flip px py else b)

/-- The rows of a sprite from `py` on, one byte each; drawing stops at the bottom edge (R161). -/
def blitRows (sx : Nat) : Nat → List Byte → Blit → Blit
  | _, [], b => b
  | py, sprite :: rest, b => if 32 ≤ py then b else blitRows sx (py + 1) rest (blitColumns sprite py sx 8 b)

/-- A DRW whose sprite bytes have been read: the anchor comes from the registers as they were, `VF` ends as the
collision flag (R161). -/
def State.drawSprite (s : State) (x y : RegNum) (sprite : List Byte) : State :=
  let b := blitRows (s.anchorX x) (s.anchorY y) sprite ⟨s.display, false⟩
  ({ s with display := b.display }.setReg flagReg (flagByte b.hit)).advance

/-- 00E0 `CLS` (R160). -/
def execCls (s : State) : Result := .next { s with display := blankDisplay }.advance

/-- Dxyn `DRW Vx,Vy,n` (R161). -/
def execDrw (x y : RegNum) (n : Fin 16) (s : State) : Result := withLoad n.val s (s.drawSprite x y)

end Sys2Proof.Machine
end

