-- ==== Sys2Proof/Machine/Engine.lean ====
section
/-! DEFINITION. The Decode-Execute Engine, the Timer Subsystem and the Frame Scheduler
(45_timers_and_scheduler.md R190-R200). -/

namespace Sys2Proof.Machine

/-- `Step` (R194): at most one instruction. A halted machine does nothing, an unrecognised word advances
(30_encoding.md R76), a failed fetch raises FetchOutOfBounds. Waiting for a key is no special case (R197). -/
def slotStep (s : State) : Result :=
  if s.status = .halted then .next s
  else match s.memory.fetch s.pc with
    | none => .next (s.raise .fetchOutOfBounds)
    | some w => match decodeWord w with
      | .ok i => exec i s
      | .error _ => .next s.advance

/-- One counter of the Timer Subsystem: down by one, saturating at 0 (R192). -/
def countDown (t : Byte) : Byte := if t = 0 then 0 else t - 1

/-- `TimerTick` (R192). -/
def State.timerTick (s : State) : State := { s with dt := countDown s.dt, st := countDown s.st }

/-- `tone <- (ST > 0 ? 1 : 0)`, at step (d) (R193). -/
def State.latchTone (s : State) : State := { s with tone := decide (0 < s.st.toNat) }

/-- Step (a) with the value the port shows: `keys <- keys_in` (R199). -/
def State.latchKeys (s : State) (k : Word) : State := { s with keys := k }

/-- Step (b): `count` slots, ending early when one of them halts the machine (R195, R198). -/
def runSlots : Nat → State → Result
  | 0, s => .next s
  | count + 1, s => match slotStep s with
    | .next t => if t.status = .halted then .next t else runSlots count t
    | .fault r => .fault r
    | .refused r => .refused r

/-- `FrameTick(keys_in)` (R195). -/
def frameTick (k : Word) (s : State) : Result :=
  if s.status = .halted then .next s
  else match runSlots s.params.ipt (s.latchKeys k) with
    | .next t => if t.status = .halted then .next t else .next t.timerTick.latchTone
    | .fault r => .fault r
    | .refused r => .refused r

/-! `FrameTick` cut into slots, with the position held in `State.slot` (notes/assumptions/2.md). -/

/-- Step (a) as a step of the model: sample the port; a tick has begun. -/
def State.pollKeys (s : State) : State := { s.latchKeys s.nextKeys with keysIn := s.keysIn.advance, phase := .ticking }

/-- What comes before a slot: step (a) before the first one of a tick. -/
def State.beginSlot (s : State) : State := if s.slot = 0 then s.pollKeys else s

/-- Steps (c) and (d), and the position back at the start of a tick. -/
def State.endTick (s : State) : State := { s.timerTick.latchTone with slot := 0 }

/-- What comes after a slot: nothing when it halted the machine (R198), else the next position, with steps (c) and (d)
after the last slot of the tick. -/
def State.endSlot (s : State) : State :=
  if s.status = .halted then s
  else if s.slot + 1 < s.params.ipt then { s with slot := s.slot + 1 }
  else s.endTick

/-- One step of the model: one instruction slot with the scheduler's work around it; with `IPT = 0` a whole tick,
which has no slot (R196). Absorbed when halted (60_exceptions.md R225). -/
def schedulerStep (s : State) : Result :=
  if s.status = .halted then .next s
  else if s.params.ipt = 0 then .next s.pollKeys.endTick
  else match slotStep s.beginSlot with
    | .next t => .next t.endSlot
    | .fault r => .fault r
    | .refused r => .refused r

/-- A machine that fetches at `pc`: the same state, but for what keeps it from fetching (halted, no slot in a tick, a
`pc` past 0xFFE). -/
def State.fetching (s : State) : State :=
  { s with
    pc := if s.pc.toNat ≤ 0xFFE then s.pc else 0x0200
    status := if s.status = .halted then .running else s.status
    faultCause := if s.status = .halted then .none else s.faultCause
    faultAddr := if s.status = .halted then 0 else s.faultAddr
    params := if s.params.ipt = 0 then { s.params with ipt := 1 } else s.params }

/-- An instruction word stored big-endian where the next fetch reads it (20_memory.md R54). -/
def State.placeWord (s : State) (w : Word) : State :=
  { s.fetching with
    memory := (s.fetching.memory.write s.fetching.pc.toNat (highByte w)).write (s.fetching.pc.toNat + 1) (lowByte w) }

end Sys2Proof.Machine
end

