-- ==== Sys2Proof/Machine/Ports.lean ====
section
/-! DEFINITION. The ports of the block (10_state.md R37): reset, load, and the outputs. The ports `keys_in` and `rnd`
are `State.keysIn` and `State.rndIn`; `tick` is the start of the next run of slots (notes/assumptions/2.md). -/

namespace Sys2Proof.Machine

/-- Write the bytes of a font over the default one; only bytes that differ become listed cells. -/
def writeFont (m : Memory) : Nat → List Byte → Memory
  | _, [] => m
  | a, b :: rest => writeFont (m.write a b) (a + 1) rest

/-- The state after reset of a machine with parameters `c` (10_state.md R36, 70_reset_and_hazards.md R250). -/
def State.resetWith (c : Config) : State :=
  { State.reset with params := c, memory := writeFont [] fontBase c.font.toList }

/-- The `reset` input: from any state, halted and waiting included, the reset state; nothing of the block survives
(R41, R250). The parameters are the instance's, and what the host shows at the input ports is not the block's. -/
def State.applyReset (s : State) : State :=
  { State.resetWith s.params with keysIn := s.keysIn, rndIn := s.rndIn }

/-- `load_error` (20_memory.md R66). -/
inductive LoadError
  | none | programTooLarge
deriving DecidableEq, Repr

/-- What a load leaves and what it drives on `load_error`. -/
structure Loaded where
  state : State
  error : LoadError
deriving DecidableEq, Repr

/-- `load(bytes, offset)`: all of the program or nothing (R66), once, between reset and the first tick
(70_reset_and_hazards.md R251, R253; 93_implementation_defined.md U21). -/
def State.load (s : State) (bytes : List Byte) (offset : Nat) : Host.Outcome Loaded Fault Refusal :=
  if s.phase ≠ .awaitingLoad then .refused .loadOutOfSequence
  else if offset + bytes.length > 0x1000 then .next ⟨{ s with phase := .loaded }, .programTooLarge⟩
  else match s.memory.storeN offset bytes with
    | some m => .next ⟨{ s with memory := m, phase := .loaded }, .none⟩
    | none => .fault (.addressOutsideMemory offset)

/-- The boot sequence up to the first tick: reset, then one load at `LOAD_OFFSET` (R251). -/
def boot (c : Config) (program : List Byte) : Host.Outcome Loaded Fault Refusal :=
  (State.resetWith c).load program c.loadOffset

/-- `display_out`: the display itself (45_timers_and_scheduler.md R200). -/
def State.displayOut (s : State) : Display := s.display

/-- `tone_out`: the tone latch, a level (45_timers_and_scheduler.md R193). -/
def State.toneOut (s : State) : Bool := s.tone

/-- `status_out` (R37). -/
def State.statusOut (s : State) : Status := s.status

/-- `fault_cause_out` and `fault_addr_out`, meaningful while halted (R37, 60_exceptions.md R226). -/
def State.faultOut (s : State) : FaultCause × Word := (s.faultCause, s.faultAddr)

/-- What step (d) has just presented to the sinks: display and tone, in the states that end a frame tick and no others
(45_timers_and_scheduler.md R198, R200). -/
def State.presented (s : State) : Option (Display × Bool) :=
  if s.slot = 0 ∧ s.phase = .ticking ∧ s.status ≠ .halted then some (s.displayOut, s.toneOut) else none

end Sys2Proof.Machine
end

