-- ==== Sys2Proof/Safety.lean ====
section
/-! DEFINITION. What counts as a safe state and a safe run, and the vocabulary of the claims: the invariant
(10_state.md R40), who writes what (R39), and the sprite of a draw as a picture (43_display.md R163, R164). -/

namespace Sys2Proof.Machine

/-- The word at `pc` has the form Fx0A (R40). -/
def State.atKeyWait (s : State) : Bool :=
  match s.memory.fetch s.pc with
  | some w => match decodeWord w with
    | .ok (.ldVxK _) => true
    | _ => false
  | none => false

/-- The invariant of R40, with the canonical form of memory, the bound on saved return addresses that the bound on
`pc` needs, and the bounds of the MODEL's own fields. The bounds on `V`, `DT`, `ST` and `sp` are in the types. -/
structure State.Inv (s : State) : Prop where
  memoryWf : s.memory.wf = true
  pcBound : s.pc.toNat ≤ 0x10FE
  stackBound : ∀ k : Fin 16, s.stack[k].toNat ≤ 0x1000
  haltedIffCause : s.status = .halted ↔ s.faultCause ≠ .none
  waitingAtKeyWait : s.status = .awaitingKey → s.pc.toNat ≤ 0xFFE ∧ s.atKeyWait = true
  slotBound : s.slot = 0 ∨ s.slot < s.params.ipt
  slotTicking : s.slot ≠ 0 → s.phase = .ticking

/-- A halted machine is in a fault state, never at a successful end (60_exceptions.md R225). -/
def State.faulted (s : State) : Prop := s.status = .halted

/-- A run of `k` steps from `s` that ends in a state which is no fault state. -/
def safeRun (k : Nat) (s : State) : Prop := ∃ t, core.run k s = .next t ∧ ¬ t.faulted

/-- What the bytes at `pc` say: the instruction, or none where the fetch fails or the word is unrecognised. -/
def State.current (s : State) : Option Instr :=
  match s.memory.fetch s.pc with
  | some w => match decodeWord w with
    | .ok i => some i
    | .error _ => none
  | none => none

/-- What `CheckRange(I, len)` raises (20_memory.md R58): `len > 0` and `I + len - 1 > 0xFFF`, the sum exact. -/
def State.outOfRange (s : State) (len : Nat) : Option FaultCause :=
  if 0 < len ∧ s.i.toNat + len - 1 > 0xFFF then some .dataAccessOutOfBounds else none

/-- The bit of the sprite at `I`, `n` rows, anchored at `(V[x] mod 64, V[y] mod 32)`, that falls on pixel `(px, py)`:
the picture of 43_display.md R162 to R164; false outside the clipped window. -/
def State.spriteAt (s : State) (x y : RegNum) (n : Nat) (px py : Nat) : Bool :=
  let sx := (s.reg x).toNat % 64
  let sy := (s.reg y).toNat % 32
  decide (sx ≤ px ∧ px < sx + 8 ∧ px < 64 ∧ sy ≤ py ∧ py < sy + n ∧ py < 32) &&
    (s.memory.read (s.i.toNat + (py - sy))).getLsbD (7 - (px - sx))

/-- Two states that show the same memory: every byte reads the same. -/
def sameMemory (s t : State) : Prop := ∀ a : Nat, t.memory.read a = s.memory.read a

end Sys2Proof.Machine

namespace Sys2Proof

open Sys2Proof.Machine

/-- The general registers an instruction may write (the first three rows of R39). -/
def Instr.writesReg (i : Instr) (r : RegNum) : Bool :=
  match i with
  | .ldImm x _ | .addImm x _ | .rnd x _ | .ldReg x _ | .orReg x _ | .andReg x _ | .xorReg x _ | .ldVxDt x
  | .ldVxK x => decide (r = x)
  | .addReg x _ | .subReg x _ | .shr x _ | .subn x _ | .shl x _ => decide (r = x) || decide (r = flagReg)
  | .drw _ _ _ => decide (r = flagReg)
  | .loadRegs x => decide (r ≤ x)
  | .cls | .ret | .jp _ | .call _ | .seImm _ _ | .sneImm _ _ | .seReg _ _ | .sneReg _ _ | .ldI _ | .jpV0 _
  | .skp _ | .sknp _ | .ldDtVx _ | .ldStVx _ | .addI _ | .ldF _ | .ldB _ | .storeRegs _ => false

/-- How many bytes from `I` on an instruction stores (R39, row `memory`): 3 for Fx33, `x + 1` for Fx55. -/
def Instr.storeLength (i : Instr) : Nat :=
  match i with
  | .ldB _ => 3
  | .storeRegs x => x.val + 1
  | .cls | .ret | .jp _ | .call _ | .seImm _ _ | .sneImm _ _ | .seReg _ _ | .sneReg _ _ | .ldI _ | .jpV0 _
  | .skp _ | .sknp _ | .ldDtVx _ | .ldStVx _ | .addI _ | .ldF _ | .ldImm _ _ | .addImm _ _ | .rnd _ _ | .ldReg _ _
  | .orReg _ _ | .andReg _ _ | .xorReg _ _ | .ldVxDt _ | .ldVxK _ | .addReg _ _ | .subReg _ _ | .shr _ _ | .subn _ _
  | .shl _ _ | .drw _ _ _ | .loadRegs _ => 0

/-- The cause an instruction raises in a state, if any: the table of 60_exceptions.md R220 without the fetch row. -/
def Instr.raises (i : Instr) (s : State) : Option FaultCause :=
  match i with
  | .ret => if s.sp = 0 then some .stackUnderflow else none
  | .call _ => if s.sp = 16 then some .stackOverflow else none
  | .drw _ _ n => s.outOfRange n.val
  | .ldB _ => s.outOfRange 3
  | .storeRegs x | .loadRegs x => s.outOfRange (x.val + 1)
  | .cls | .jp _ | .seImm _ _ | .sneImm _ _ | .seReg _ _ | .sneReg _ _ | .ldI _ | .jpV0 _
  | .skp _ | .sknp _ | .ldDtVx _ | .ldStVx _ | .addI _ | .ldF _ | .ldImm _ _ | .addImm _ _ | .rnd _ _ | .ldReg _ _
  | .orReg _ _ | .andReg _ _ | .xorReg _ _ | .ldVxDt _ | .ldVxK _ | .addReg _ _ | .subReg _ _ | .shr _ _ | .subn _ _
  | .shl _ _ => none

end Sys2Proof
end

