-- ==== Sys2Proof/Certificates/Slice0/Obligations.lean ====
section
/-! DEFINITION. The statements for the provers. Where a docstring names an entry, that clause is the model's choice or
the spec's own decision, not a rule of the source. A next state is written as `{ s with … }` wherever the rule gives
every field, so that each such statement is the instruction's frame as well. -/

open Sys2Proof Sys2Proof.Machine

/-! ### Encoding -/

/-- Every instruction with every operand survives encoding and decoding: as a word, as bytes in memory order with
anything after them, and as a table word (30_encoding.md R70 to R75). -/
def Obligations.DecodeOfEncode : Prop :=
  ∀ (i : Instr) (rest : List Byte),
    decodeWord (encode i) = .ok i ∧ decodeBytes (encodeBytes i ++ rest) = .ok (i, rest) ∧
      decodeTableWord 16 (encode i).toNat = some i

/-- Each word has one meaning: what decodes encodes back to the same word (30_encoding.md R74). -/
def Obligations.EncodeOfDecode : Prop := ∀ (w : Word) (i : Instr), decodeWord w = .ok i → encode i = w

/-- A word is an instruction exactly when `(w & mask) == match` for that instruction's row, and rows do not overlap
(30_encoding.md R74, R75; that fixed nibbles are compared is the spec's decision D5). -/
def Obligations.DecodeByOpcodeRows : Prop :=
  (∀ (w : Word) (i : Instr), decodeWord w = .ok i → i.row.selects w = true) ∧
  (∀ (w : Word) (i : Instr), i.row.selects w = true → ∃ j, decodeWord w = .ok j ∧ j.row = i.row) ∧
  (∀ (i j : Instr) (w : Word), i.row.selects w = true → j.row.selects w = true → i.row = j.row)

/-- The words that are no instruction are exactly the six sets of the table of 30_encoding.md R76. -/
def Obligations.UnrecognisedWordsOfTheTable : Prop :=
  ∀ w : Word,
    (∃ e, decodeWord w = .error e) ↔
      ((w.toNat / 4096 = 0x0 ∧ w ≠ 0x00E0 ∧ w ≠ 0x00EE) ∨
       (w.toNat / 4096 = 0x5 ∧ w.toNat % 16 ≠ 0) ∨
       (w.toNat / 4096 = 0x8 ∧ w.toNat % 16 ∈ [0x8, 0x9, 0xA, 0xB, 0xC, 0xD, 0xF]) ∨
       (w.toNat / 4096 = 0x9 ∧ w.toNat % 16 ≠ 0) ∨
       (w.toNat / 4096 = 0xE ∧ w.toNat % 256 ≠ 0x9E ∧ w.toNat % 256 ≠ 0xA1) ∨
       (w.toNat / 4096 = 0xF ∧
          w.toNat % 256 ∉ [0x07, 0x0A, 0x15, 0x18, 0x1E, 0x29, 0x33, 0x55, 0x65]))

/-- Words of the opcode map, one of each format, decode to the instruction they stand for (30_encoding.md R72, R75). -/
def Obligations.TableWordsDecode : Prop :=
  decodeWord 0x00E0 = .ok .cls ∧ decodeWord 0x2345 = .ok (.call 0x345) ∧ decodeWord 0x6A2C = .ok (.ldImm 0xA 0x2C) ∧
  decodeWord 0x8F14 = .ok (.addReg 0xF 0x1) ∧ decodeWord 0xD015 = .ok (.drw 0 1 5) ∧
  decodeWord 0xF533 = .ok (.ldB 5)

/-! ### Fetch and step -/

/-- Fetch is big-endian: the byte at the lower address is bits 15..8 (20_memory.md R54). -/
def Obligations.FetchIsBigEndian : Prop :=
  ∀ (m : Memory) (a : Word), a.toNat ≤ 0xFFE →
    ∃ w, m.fetch a = some w ∧ w.toNat = (m.read a.toNat).toNat * 256 + (m.read (a.toNat + 1)).toNat ∧
      w.extractLsb' 8 8 = m.read a.toNat

/-- A slot whose `pc` is above 0xFFE raises FetchOutOfBounds with that `pc`, on the full 16 bits; up to 0xFFE the fetch
succeeds (20_memory.md R55). -/
def Obligations.FetchBound : Prop :=
  ∀ s : State, s.status ≠ .halted →
    (0xFFE < s.pc.toNat →
      slotStep s = .next { s with faultCause := .fetchOutOfBounds, faultAddr := s.pc, status := .halted }) ∧
    (s.pc.toNat ≤ 0xFFE → ∃ w, s.memory.fetch s.pc = some w)

/-- A step whose bytes at `pc` decode to `i` is `exec i`, after the key latch of step (a) when the slot is the tick's
first, and before the next position or steps (c) and (d) when it is the last (45_timers_and_scheduler.md R194, R195;
the cut into slots is entry 2, the MODEL's port and phase entries 3 and 23, the kept position of a halted machine entry
15). -/
def Obligations.StepRunsDecodedInstruction : Prop :=
  ∀ (s : State) (i : Instr), s.status ≠ .halted → s.params.ipt ≠ 0 → s.pc.toNat ≤ 0xFFE →
    decodeBytes [s.memory.read s.pc.toNat, s.memory.read (s.pc.toNat + 1)] = .ok (i, []) →
    step s =
      match exec i
        (if s.slot = 0 then { s with keys := s.nextKeys, keysIn := s.keysIn.advance, phase := .ticking } else s) with
      | .next t =>
        .next (if t.status = .halted then t
          else if t.slot + 1 < t.params.ipt then { t with slot := t.slot + 1 }
          else { t with
            dt := countDown t.dt
            st := countDown t.st
            tone := decide (0 < (countDown t.st).toNat)
            slot := 0 })
      | .fault r => .fault r
      | .refused r => .refused r

/-- An unrecognised word advances `pc` by 2 and changes nothing else (30_encoding.md R76). -/
def Obligations.UnrecognisedWordAdvances : Prop :=
  ∀ (s : State) (w : Word) (e : DecodeReject), s.status ≠ .halted → s.memory.fetch s.pc = some w →
    decodeWord w = .error e → slotStep s = .next { s with pc := s.pc + 2 }

/-- Every instruction in every state, and every step, answers a next state: no refusal, and the memory primitives are
never used at an address that does not exist (20_memory.md R57, R58; the bound is the spec's decision D2).
That a fatal program error, and a step of a halted machine, are answered as a next state is the model's choice, entry
1 (R225 asks that a halted state be treated as a fault state, which `safeRun` does); a step is a slot of entry 2, and
the fault of the memory primitives is entry 8. -/
def Obligations.NothingIsRefused : Prop :=
  (∀ (i : Instr) (s : State), ∃ t, exec i s = .next t) ∧ (∀ s : State, ∃ t, step s = .next t)

/-- A halted machine is absorbed by every agent and is never a successful end of a run (60_exceptions.md R225, the
spec's decision D10; that the step answers the same state is entry 1).
A step is a slot of entry 2. -/
def Obligations.HaltedIsAbsorbing : Prop :=
  ∀ (s : State) (k : Word) (n : Nat), s.status = .halted →
    slotStep s = .next s ∧ step s = .next s ∧ frameTick k s = .next s ∧ ¬ safeRun n s

/-- From the start of a tick, IPT steps of the model are one `FrameTick` of 45_timers_and_scheduler.md R195 with the
key value the port shows, halts inside the batch included; only the MODEL's own fields differ. The cut into slots and
the position are the model's choice, entry 2; the port and the phase are entries 3 and 23; the halt inside a batch is
the spec's decision D10. -/
def Obligations.SlotsMakeFrameTick : Prop :=
  ∀ s : State, s.status ≠ .halted → s.slot = 0 → 0 < s.params.ipt →
    ∃ t : State, core.run s.params.ipt s = .next t ∧
      frameTick s.nextKeys s = .next { t with keysIn := s.keysIn, phase := s.phase, slot := 0 } ∧
      t.keysIn = s.keysIn.advance ∧ (t.status ≠ .halted → t.slot = 0)

/-- With IPT = 0 a step is a tick without instructions: keys, timers and tone as always, nothing else
(45_timers_and_scheduler.md R196, the spec's decision D16). That one step is then the whole tick, and what the MODEL's
own `slot`, `keysIn` and `phase` become, is the model's choice: entries 2, 3 and 23. -/
def Obligations.NoSlotsStillTicks : Prop :=
  ∀ s : State, s.status ≠ .halted → s.params.ipt = 0 →
    ∃ t, step s = .next t ∧ t.keys = s.nextKeys ∧ t.dt.toNat = s.dt.toNat - 1 ∧ t.st.toNat = s.st.toNat - 1 ∧
      t.tone = decide (0 < t.st.toNat) ∧
      t = { s with keys := t.keys, dt := t.dt, st := t.st, tone := t.tone, keysIn := s.keysIn.advance, slot := 0,
                   phase := .ticking }

/-! ### Invariant -/

/-- Every step keeps the invariant of 10_state.md R40 and the canonical form of memory (entry 7); the clauses on the
MODEL's own slot position and phase are entries 2 and 23. -/
def Obligations.StepKeepsInvariant : Prop := ∀ s t : State, s.Inv → step s = .next t → t.Inv

/-- The invariant holds after reset. -/
def Obligations.ResetMeetsInvariant : Prop := State.reset.Inv

/-! ### Who writes what, and faults -/

/-- The frame of every instruction: 10_state.md R39, every byte of memory through the read of one byte. The stored
bytes are `storeLength` bytes from `I`, the address the stores compute. -/
def Obligations.InstructionFrame : Prop :=
  ∀ (i : Instr) (s t : State), exec i s = .next t →
    (∀ r, i.writesReg r = false → t.reg r = s.reg r) ∧
    ((∀ nnn, i ≠ .ldI nnn) → (∀ x, i ≠ .addI x) → (∀ x, i ≠ .ldF x) → t.i = s.i) ∧
    (∀ k : Fin 16, (∀ nnn, i ≠ .call nnn) ∨ k.val ≠ s.sp.val → t.stack[k] = s.stack[k]) ∧
    ((∀ nnn, i ≠ .call nnn) → i ≠ .ret → t.sp = s.sp) ∧
    ((∀ x, i ≠ .ldDtVx x) → t.dt = s.dt) ∧
    ((∀ x, i ≠ .ldStVx x) → t.st = s.st) ∧
    (i ≠ .cls → (∀ x y n, i ≠ .drw x y n) → t.display = s.display) ∧
    (∀ a : Nat, ¬ (s.i.toNat ≤ a ∧ a < s.i.toNat + i.storeLength) → t.memory.read a = s.memory.read a) ∧
    (i.raises s = none → t.faultCause = s.faultCause ∧ t.faultAddr = s.faultAddr) ∧
    (i.raises s = none → (∀ x, i ≠ .ldVxK x) → t.status = s.status) ∧
    t.keys = s.keys ∧ t.tone = s.tone ∧ t.params = s.params ∧ t.slot = s.slot ∧ t.keysIn = s.keysIn ∧
    t.phase = s.phase ∧ ((∀ x nn, i ≠ .rnd x nn) → t.rndIn = s.rndIn)

/-- Fatal errors are exact and precise: an instruction halts a running machine under the condition of its row of
60_exceptions.md R220 and no other, and then only the fault record and the status have changed (R226; the address,
the data bound and the halt are the spec's decisions D2, D9, D10).
That the error is answered as a next state is entry 1. -/
def Obligations.FaultsAreExactAndPrecise : Prop :=
  ∀ (i : Instr) (s : State), s.status ≠ .halted →
    (∀ c, i.raises s = some c →
      exec i s = .next { s with faultCause := c, faultAddr := s.pc, status := .halted }) ∧
    (i.raises s = none → ∃ t, exec i s = .next t ∧ t.status ≠ .halted)

/-- The data bound of Dxyn with rows, Fx33, Fx55 and Fx65: the whole range is checked before any effect
(20_memory.md R58, the spec's decision D2).
That the error is answered as a next state is entry 1. -/
def Obligations.DataBoundFault : Prop :=
  ∀ (s : State) (x y : RegNum) (n : Fin 16),
    (0 < n.val → 0xFFF < s.i.toNat + n.val - 1 → exec (.drw x y n) s =
      .next { s with faultCause := .dataAccessOutOfBounds, faultAddr := s.pc, status := .halted }) ∧
    (0xFFD < s.i.toNat → exec (.ldB x) s =
      .next { s with faultCause := .dataAccessOutOfBounds, faultAddr := s.pc, status := .halted }) ∧
    (0xFFF < s.i.toNat + x.val → exec (.storeRegs x) s =
      .next { s with faultCause := .dataAccessOutOfBounds, faultAddr := s.pc, status := .halted }) ∧
    (0xFFF < s.i.toNat + x.val → exec (.loadRegs x) s =
      .next { s with faultCause := .dataAccessOutOfBounds, faultAddr := s.pc, status := .halted })

/-- A step that halts leaves everything as it was when the slot began but for the fault record and the status: no
timer tick and no tone evaluation follow (45_timers_and_scheduler.md R198, 60_exceptions.md R226, the spec's decisions
D9 and D10). The cut into slots, the key port and the phase are the model's choice, entries 2, 3 and 23, and so is that
a halted machine keeps its slot position, entry 15.
That the error is answered as a next state is entry 1. -/
def Obligations.HaltSkipsTheRestOfTheTick : Prop :=
  ∀ s t : State, s.status ≠ .halted → step s = .next t → t.status = .halted →
    ∃ c, c ≠ .none ∧ t =
      { (if s.slot = 0 then { s with keys := s.nextKeys, keysIn := s.keysIn.advance, phase := .ticking } else s) with
        faultCause := c, faultAddr := s.pc, status := .halted }

/-- Over every step, a byte of memory changes only at the hands of Fx33 in `I .. I+2` or Fx55 in `I .. I+x`, the font
region included (20_memory.md R53).
That every byte a step changes belongs to the one instruction at `pc` rests on a step being one slot, the model's
choice, entry 2; that a fatal error is a next state is entry 1. -/
def Obligations.MemoryChangesOnlyByStores : Prop :=
  ∀ (s t : State) (a : Nat), step s = .next t → t.memory.read a ≠ s.memory.read a →
    (∃ x, s.current = some (.ldB x) ∧ s.i.toNat ≤ a ∧ a ≤ s.i.toNat + 2) ∨
    (∃ x, s.current = some (.storeRegs x) ∧ s.i.toNat ≤ a ∧ a ≤ s.i.toNat + x.val)

/-- Over every step, the display changes only at the hands of 00E0 and Dxyn (10_state.md R29).
That a change over a step belongs to the one instruction at `pc` rests on a step being one slot, the model's choice,
entry 2; that a fatal error is a next state is entry 1. -/
def Obligations.DisplayChangesOnlyByClsAndDraw : Prop :=
  ∀ s t : State, step s = .next t → t.display ≠ s.display →
    s.current = some .cls ∨ ∃ x y n, s.current = some (.drw x y n)

/-! ### Control transfer -/

/-- 1nnn (40_control_transfer.md R91). -/
def Obligations.JumpLoadsTarget : Prop :=
  ∀ (s : State) (nnn : Addr12), exec (.jp nnn) s = .next { s with pc := BitVec.ofNat 16 nnn.toNat }

/-- 2nnn: push `pc0 + 2` in the next free slot, then jump; StackOverflow with nothing written when the stack is full
(40_control_transfer.md R92). -/
def Obligations.CallPushesReturnAddress : Prop :=
  ∀ (s : State) (nnn : Addr12),
    (∀ k : Fin 16, s.sp = k.castSucc → exec (.call nnn) s =
      .next { s with stack := s.stack.set k.val (s.pc + 2) k.isLt, sp := k.succ, pc := BitVec.ofNat 16 nnn.toNat }) ∧
    (s.sp = 16 → exec (.call nnn) s =
      .next { s with faultCause := .stackOverflow, faultAddr := s.pc, status := .halted })

/-- 00EE: take the newest return address, keep its slot, no advance; StackUnderflow with nothing written when the stack
is empty (40_control_transfer.md R90). -/
def Obligations.ReturnPopsReturnAddress : Prop :=
  ∀ s : State,
    (∀ k : Fin 16, s.sp = k.succ → exec .ret s = .next { s with sp := k.castSucc, pc := s.stack[k] }) ∧
    (s.sp = 0 → exec .ret s = .next { s with faultCause := .stackUnderflow, faultAddr := s.pc, status := .halted })

/-- A return after a call comes back to the instruction after the call with the stack pointer as before
(95_test_vectors.md S8). -/
def Obligations.ReturnUndoesCall : Prop :=
  ∀ (s t : State) (nnn : Addr12), s.sp ≠ 16 → exec (.call nnn) s = .next t →
    ∃ u, exec .ret t = .next u ∧ u.pc = s.pc + 2 ∧ u.sp = s.sp ∧ u.v = s.v

/-- 3xnn and 4xnn (40_control_transfer.md R93, R94). -/
def Obligations.SkipOnImmediate : Prop :=
  ∀ (s : State) (x : RegNum) (nn : Byte),
    exec (.seImm x nn) s = .next { s with pc := if s.reg x = nn then s.pc + 4 else s.pc + 2 } ∧
    exec (.sneImm x nn) s = .next { s with pc := if s.reg x = nn then s.pc + 2 else s.pc + 4 }

/-- 5xy0 and 9xy0 (40_control_transfer.md R95, R96). -/
def Obligations.SkipOnRegisters : Prop :=
  ∀ (s : State) (x y : RegNum),
    exec (.seReg x y) s = .next { s with pc := if s.reg x = s.reg y then s.pc + 4 else s.pc + 2 } ∧
    exec (.sneReg x y) s = .next { s with pc := if s.reg x = s.reg y then s.pc + 2 else s.pc + 4 }

/-- Bnnn: `nnn + V[0]` in full, never `V[x]` and never reduced to 12 bits (40_control_transfer.md R97, the spec's
decision D27). -/
def Obligations.IndexedJumpAddsV0 : Prop :=
  ∀ (s : State) (nnn : Addr12),
    ∃ t, exec (.jpV0 nnn) s = .next t ∧ t.pc.toNat = nnn.toNat + (s.reg 0).toNat ∧ t = { s with pc := t.pc }

/-- A jump to itself, the convention for a finished program: the program's own state stays as it is for ever, while the
scheduler goes on (70_reset_and_hazards.md R262).
The step is a slot of entry 2; the convention is general knowledge. -/
def Obligations.SelfJumpStays : Prop :=
  ∀ (s : State) (nnn : Addr12), s.status = .running → s.current = some (.jp nnn) → nnn.toNat = s.pc.toNat →
    ∃ t, step s = .next t ∧ t.v = s.v ∧ t.pc = s.pc ∧ t.i = s.i ∧ t.stack = s.stack ∧ t.sp = s.sp ∧
      sameMemory s t ∧ t.display = s.display ∧ t.status = .running

/-! ### Arithmetic and logic -/

/-- 6xnn and 7xnn, `VF` untouched unless it is the destination (41_alu.md R110, R111). -/
def Obligations.LoadAndAddImmediate : Prop :=
  ∀ (s : State) (x : RegNum) (nn : Byte),
    exec (.ldImm x nn) s = .next { s with v := s.v.set x.val nn x.isLt, pc := s.pc + 2 } ∧
    exec (.addImm x nn) s =
      .next { s with
        v := s.v.set x.val (BitVec.ofNat 8 (((s.reg x).toNat + nn.toNat) % 256)) x.isLt
        pc := s.pc + 2 }

/-- 8xy0 to 8xy3 (41_alu.md R112 to R115; the meaning of 8xy0 is general knowledge, entry 16, and that `VF` stays is
the spec's decision D4, entry 11). -/
def Obligations.CopyAndLogic : Prop :=
  ∀ (s : State) (x y : RegNum),
    exec (.ldReg x y) s = .next { s with v := s.v.set x.val (s.reg y) x.isLt, pc := s.pc + 2 } ∧
    exec (.orReg x y) s = .next { s with v := s.v.set x.val (s.reg x ||| s.reg y) x.isLt, pc := s.pc + 2 } ∧
    exec (.andReg x y) s = .next { s with v := s.v.set x.val (s.reg x &&& s.reg y) x.isLt, pc := s.pc + 2 } ∧
    exec (.xorReg x y) s = .next { s with v := s.v.set x.val (s.reg x ^^^ s.reg y) x.isLt, pc := s.pc + 2 }

/-- 8xy4: the sum modulo 256, then the carry in `VF` (41_alu.md R116). -/
def Obligations.AddSetsCarry : Prop :=
  ∀ (s : State) (x y : RegNum),
    exec (.addReg x y) s =
      .next { s with
        v := (s.v.set x.val (BitVec.ofNat 8 (((s.reg x).toNat + (s.reg y).toNat) % 256)) x.isLt).set 15
          (if (s.reg x).toNat + (s.reg y).toNat > 255 then 1 else 0)
        pc := s.pc + 2 }

/-- 8xy5 and 8xy7: the difference modulo 256, then not-borrow in `VF`, 1 on equal operands (41_alu.md R117, R119, R122;
the operand orders are general knowledge, entry 16). -/
def Obligations.SubtractSetsNotBorrow : Prop :=
  ∀ (s : State) (x y : RegNum),
    exec (.subReg x y) s =
      .next { s with
        v := (s.v.set x.val (BitVec.ofNat 8 (((s.reg x).toNat + 256 - (s.reg y).toNat) % 256)) x.isLt).set 15
          (if (s.reg x).toNat ≥ (s.reg y).toNat then 1 else 0)
        pc := s.pc + 2 } ∧
    exec (.subn x y) s =
      .next { s with
        v := (s.v.set x.val (BitVec.ofNat 8 (((s.reg y).toNat + 256 - (s.reg x).toNat) % 256)) x.isLt).set 15
          (if (s.reg y).toNat ≥ (s.reg x).toNat then 1 else 0)
        pc := s.pc + 2 }

/-- 8xy6 and 8xyE for both values of SHIFT_SRC: the shifted value, then the bit shifted out in `VF` (41_alu.md R118,
R120; the flag is general knowledge, the source register the spec's decision D3, entries 5 and 16). -/
def Obligations.ShiftsSetBitOut : Prop :=
  ∀ (s : State) (x y : RegNum) (a : Nat),
    (s.params.shiftSrc = .x ∧ a = (s.reg x).toNat ∨ s.params.shiftSrc = .y ∧ a = (s.reg y).toNat) →
    exec (.shr x y) s =
      .next { s with
        v := (s.v.set x.val (BitVec.ofNat 8 (a / 2)) x.isLt).set 15 (if a % 2 = 1 then 1 else 0)
        pc := s.pc + 2 } ∧
    exec (.shl x y) s =
      .next { s with
        v := (s.v.set x.val (BitVec.ofNat 8 (a * 2 % 256)) x.isLt).set 15 (if a ≥ 128 then 1 else 0)
        pc := s.pc + 2 }

/-- The operands are read first and the flag is written last: it is what remains in `VF`, also when `VF` is the
destination, and the result stands in every other destination (41_alu.md R123). Which operand SUB and SUBN subtract and
which bit a shift flags are general knowledge, entry 16; which register a shift reads is the spec's decision D3,
entry 5. -/
def Obligations.FlagIsWrittenLast : Prop :=
  ∀ (s t : State) (x y : RegNum),
    (exec (.addReg x y) s = .next t →
      t.reg flagReg = carryFlag (s.reg x) (s.reg y) ∧ (x ≠ flagReg → t.reg x = s.reg x + s.reg y)) ∧
    (exec (.subReg x y) s = .next t →
      t.reg flagReg = notBorrowFlag (s.reg x) (s.reg y) ∧ (x ≠ flagReg → t.reg x = s.reg x - s.reg y)) ∧
    (exec (.subn x y) s = .next t →
      t.reg flagReg = notBorrowFlag (s.reg y) (s.reg x) ∧ (x ≠ flagReg → t.reg x = s.reg y - s.reg x)) ∧
    (exec (.shr x y) s = .next t →
      t.reg flagReg = shiftOutLow (s.shiftOperand x y) ∧ (x ≠ flagReg → t.reg x = s.shiftOperand x y >>> 1)) ∧
    (exec (.shl x y) s = .next t →
      t.reg flagReg = shiftOutHigh (s.shiftOperand x y) ∧ (x ≠ flagReg → t.reg x = s.shiftOperand x y <<< 1))

/-- Cxnn: one sample of the port ANDed with `nn`; the oldest supplied value is the sample; a bit that is 0 in `nn` is 0
in the result and every such result is possible (41_alu.md R121, the spec's decision D11; holds for every content of
the port, entry 4). -/
def Obligations.RandomIsMaskedSample : Prop :=
  ∀ (s : State) (x : RegNum) (nn : Byte),
    exec (.rnd x nn) s =
      .next { s with v := s.v.set x.val (s.nextRnd &&& nn) x.isLt, pc := s.pc + 2, rndIn := s.rndIn.advance } ∧
    (∀ b rest, s.rndIn.pending = b :: rest → s.nextRnd = b ∧ s.rndIn.advance.pending = rest) ∧
    (∀ b : Byte, b &&& ~~~nn = 0 →
      ∃ p t, exec (.rnd x nn) { s with rndIn := p } = .next t ∧ t.reg x = b)

/-! ### Index register and memory -/

/-- Annn (42_index_and_memory.md R141). -/
def Obligations.LoadIndex : Prop :=
  ∀ (s : State) (nnn : Addr12),
    exec (.ldI nnn) s = .next { s with i := BitVec.ofNat 16 nnn.toNat, pc := s.pc + 2 }

/-- Fx1E wraps at 16 bits and sets no flag; Fx29 takes the whole byte (42_index_and_memory.md R142, R143; no flag and no
masking are the spec's decisions D20, D19, entries 18 and 19). -/
def Obligations.IndexArithmetic : Prop :=
  ∀ (s : State) (x : RegNum),
    exec (.addI x) s =
      .next { s with i := BitVec.ofNat 16 ((s.i.toNat + (s.reg x).toNat) % 65536), pc := s.pc + 2 } ∧
    exec (.ldF x) s = .next { s with i := BitVec.ofNat 16 (0x50 + (s.reg x).toNat * 5), pc := s.pc + 2 }

/-- Fx33 in range: the decimal digits, most significant first, at `I`, `I+1`, `I+2`, every other byte and every other
field as before (42_index_and_memory.md R144; the order of the digits is the spec's decision D21, entry 17). -/
def Obligations.StoreDecimalDigits : Prop :=
  ∀ (s : State) (x : RegNum), s.memory.wf = true → s.i.toNat ≤ 0xFFD →
    ∃ t, exec (.ldB x) s = .next t ∧
      (t.memory.read s.i.toNat).toNat = (s.reg x).toNat / 100 ∧
      (t.memory.read (s.i.toNat + 1)).toNat = (s.reg x).toNat / 10 % 10 ∧
      (t.memory.read (s.i.toNat + 2)).toNat = (s.reg x).toNat % 10 ∧
      (∀ a : Nat, ¬ (s.i.toNat ≤ a ∧ a ≤ s.i.toNat + 2) → t.memory.read a = s.memory.read a) ∧
      t = { s with memory := t.memory, pc := s.pc + 2 } ∧ t.memory.wf = true

/-- Fx55 in range: `V[0] .. V[x]` at `I .. I+x`, every other byte and every other field as before, `I` included
(42_index_and_memory.md R145; `I` unchanged is the spec's decision D20, entry 19). -/
def Obligations.StoreRegisters : Prop :=
  ∀ (s : State) (x : RegNum), s.memory.wf = true → s.i.toNat + x.val ≤ 0xFFF →
    ∃ t, exec (.storeRegs x) s = .next t ∧
      (∀ r : RegNum, r ≤ x → t.memory.read (s.i.toNat + r.val) = s.reg r) ∧
      (∀ a : Nat, ¬ (s.i.toNat ≤ a ∧ a ≤ s.i.toNat + x.val) → t.memory.read a = s.memory.read a) ∧
      t = { s with memory := t.memory, pc := s.pc + 2 } ∧ t.memory.wf = true

/-- Fx65 in range: `V[r]` receives the byte at `I + r` for `r` up to `x`, the other registers and every other field as
before (42_index_and_memory.md R146; `I` unchanged is the spec's decision D20, entry 19). -/
def Obligations.LoadRegisters : Prop :=
  ∀ (s : State) (x : RegNum), s.i.toNat + x.val ≤ 0xFFF →
    ∃ t, exec (.loadRegs x) s = .next t ∧
      (∀ r : RegNum, t.reg r = if r ≤ x then s.memory.read (s.i.toNat + r.val) else s.reg r) ∧
      t = { s with v := t.v, pc := s.pc + 2 }

/-- Self-modifying code: two bytes that Fx55 stores are what a later fetch from there reads (20_memory.md R63). -/
def Obligations.FetchSeesStore : Prop :=
  ∀ (s : State) (x r q : RegNum) (a : Word), s.memory.wf = true → s.i.toNat + x.val ≤ 0xFFF → q ≤ x →
    r.val + 1 = q.val → a.toNat = s.i.toNat + r.val →
    ∃ t, exec (.storeRegs x) s = .next t ∧ t.memory.fetch a = some (wordOfBytes (s.reg r) (s.reg q))

/-! ### Display -/

/-- 00E0: every pixel clear for any prior display, `VF` and the rest untouched (43_display.md R160). -/
def Obligations.ClearScreen : Prop :=
  ∀ s : State, ∃ t, exec .cls s = .next t ∧ (∀ px py : Nat, t.display.pixel px py = false) ∧
    t = { s with display := t.display, pc := s.pc + 2 }

/-- Dxyn in range is the exclusive OR of the clipped sprite onto the display, the anchor taken from the registers before
`VF` is cleared; `VF` ends as the collision flag, `n = 0` included (43_display.md R161 to R164; read order and `n = 0`
are the spec's decision D22, entry 20). -/
def Obligations.DrawIsClippedXor : Prop :=
  ∀ (s : State) (x y : RegNum) (n : Fin 16), (n.val = 0 ∨ s.i.toNat + n.val ≤ 0x1000) →
    ∃ t, exec (.drw x y n) s = .next t ∧
      (∀ px py : Nat, px < 64 → py < 32 →
        t.display.pixel px py = (s.display.pixel px py ^^ s.spriteAt x y n.val px py)) ∧
      ((∃ px py : Nat, s.display.pixel px py = true ∧ s.spriteAt x y n.val px py = true) → t.reg flagReg = 1) ∧
      ((¬ ∃ px py : Nat, s.display.pixel px py = true ∧ s.spriteAt x y n.val px py = true) → t.reg flagReg = 0) ∧
      (∀ r, r ≠ flagReg → t.reg r = s.reg r) ∧
      t = { s with display := t.display, v := t.v, pc := s.pc + 2 }

/-- Drawing the same sprite twice at the same place restores the display; the second draw reports a collision exactly
when the sprite has a 1 bit on a pixel that was clear before the first, so always when the display was clear and the
sprite shows anything (43_display.md R163, derived from R161; entry 21). -/
def Obligations.DrawTwiceRestores : Prop :=
  ∀ (s t : State) (x y : RegNum) (n : Fin 16), (n.val = 0 ∨ s.i.toNat + n.val ≤ 0x1000) →
    exec (.drw x y n) s = .next t → t.anchorX x = s.anchorX x → t.anchorY y = s.anchorY y →
    ∃ u, exec (.drw x y n) t = .next u ∧ u.display = s.display ∧
      (u.reg flagReg = 1 ↔ ∃ px py : Nat, s.display.pixel px py = false ∧ s.spriteAt x y n.val px py = true)

/-! ### Keypad, timers, scheduler -/

/-- Ex9E and ExA1 on the key whose number is the low nibble of `V[x]` (44_keypad_and_timer_instructions.md R170, R171,
R176, the spec's decision D8, entry 14). -/
def Obligations.SkipOnKey : Prop :=
  ∀ (s : State) (x : RegNum) (k : Fin 16), k.val = (s.reg x).toNat % 16 →
    exec (.skp x) s = .next { s with pc := if s.keys[k] = true then s.pc + 4 else s.pc + 2 } ∧
    exec (.sknp x) s = .next { s with pc := if s.keys[k] = true then s.pc + 2 else s.pc + 4 }

/-- Fx07, Fx15, Fx18; the tone latch does not move at the write (44_keypad_and_timer_instructions.md R172, R174, R175;
the directions are general knowledge, entry 16). -/
def Obligations.TimerMoves : Prop :=
  ∀ (s : State) (x : RegNum),
    exec (.ldVxDt x) s = .next { s with v := s.v.set x.val s.dt x.isLt, pc := s.pc + 2 } ∧
    exec (.ldDtVx x) s = .next { s with dt := s.reg x, pc := s.pc + 2 } ∧
    exec (.ldStVx x) s = .next { s with st := s.reg x, pc := s.pc + 2 }

/-- Fx0A: with a key down it stores the lowest one's number, runs on and is Running; with none it waits where it is
(44_keypad_and_timer_instructions.md R173, the spec's decisions D6, D7, entry 13). -/
def Obligations.WaitForKey : Prop :=
  ∀ (s : State) (x : RegNum),
    (s.keys = 0 → exec (.ldVxK x) s = .next { s with status := .awaitingKey }) ∧
    (s.keys ≠ 0 → ∃ k : Fin 16, s.keys[k] = true ∧ (∀ j : Fin 16, j < k → s.keys[j] = false) ∧
      exec (.ldVxK x) s =
        .next { s with v := s.v.set x.val (BitVec.ofNat 8 k.val) x.isLt, status := .running, pc := s.pc + 2 })

/-- While the machine waits and no key is down, a step leaves everything a program can see but the timers: no
instruction completes (45_timers_and_scheduler.md R197, 60_exceptions.md R238, the spec's decision D7, entry 13; the
step is a slot of entry 2). -/
def Obligations.WaitingOnlyPolls : Prop :=
  ∀ s : State, s.Inv → s.status = .awaitingKey → s.beginSlot.keys = 0 →
    ∃ t, step s = .next t ∧ t.v = s.v ∧ t.pc = s.pc ∧ t.i = s.i ∧ t.stack = s.stack ∧ t.sp = s.sp ∧
      sameMemory s t ∧ t.display = s.display ∧ t.status = .awaitingKey ∧ t.keys = 0

/-- `TimerTick` takes one from each timer, stops at 0 and does nothing else. Over every step, the timers count by one when
the slot is the tick's last and not at all otherwise, unless the instruction writes the timer itself; a halted machine
and a step that halts do not count (45_timers_and_scheduler.md R192, R195, R198). The clauses on a step rest on the cut
into slots, the model's choice, entry 2, and those on a halt on the spec's decision D10, entry 15. -/
def Obligations.TimersCountOncePerTick : Prop :=
  (∀ s : State, ∃ t, s.timerTick = t ∧ t.dt.toNat = s.dt.toNat - 1 ∧ t.st.toNat = s.st.toNat - 1 ∧
    t = { s with dt := t.dt, st := t.st }) ∧
  (∀ s t : State, step s = .next t →
    (t.status = .halted → t.dt = s.dt ∧ t.st = s.st) ∧
    (t.status ≠ .halted →
      ((∀ x, s.current ≠ some (.ldDtVx x)) →
        t.dt.toNat = if s.slot + 1 < s.params.ipt then s.dt.toNat else s.dt.toNat - 1) ∧
      ((∀ x, s.current ≠ some (.ldStVx x)) →
        t.st.toNat = if s.slot + 1 < s.params.ipt then s.st.toNat else s.st.toNat - 1)))

/-- The tone output is the latch, a level evaluated at step (d), after that tick's TimerTick, and constant in between
(45_timers_and_scheduler.md R193, R198; conflict C3, entry 22). The clauses on a slot rest on the model's choice of
entry 2, and the one on a step that halts on the spec's decision D10, entry 15. -/
def Obligations.ToneIsLatchedAtStepD : Prop :=
  ∀ s t : State, s.status ≠ .halted → step s = .next t →
    t.toneOut = t.tone ∧
    (s.slot + 1 < s.params.ipt ∨ t.status = .halted → t.tone = s.tone) ∧
    (¬ s.slot + 1 < s.params.ipt → t.status ≠ .halted → t.tone = decide (0 < t.st.toNat))

/-- The key latch takes the port's value before the first slot of a tick and holds it through the batch
(45_timers_and_scheduler.md R199, 10_state.md R32). The clauses on a slot are entry 2; the port as a list of supplied
values, the oldest of which is the port's value, is the model's choice, entry 3. -/
def Obligations.KeysLatchedOncePerTick : Prop :=
  ∀ s t : State, s.Inv → s.status ≠ .halted → step s = .next t →
    (s.slot = 0 → t.keys = s.nextKeys ∧ t.keysIn = s.keysIn.advance) ∧
    (s.slot ≠ 0 → t.keys = s.keys ∧ t.keysIn = s.keysIn) ∧
    (∀ k rest, s.keysIn.pending = k :: rest → s.nextKeys = k)

/-- Display and tone are presented exactly at the steps that complete a tick (45_timers_and_scheduler.md R198, R200; the
form of the presentation is entry 24, the cut into slots entry 2, the phase entry 23; that a halt presents nothing is
the spec's decision D10, entry 15). -/
def Obligations.PresentedOncePerTick : Prop :=
  ∀ s t : State, s.Inv → s.status ≠ .halted → step s = .next t →
    (t.presented = if s.slot + 1 < s.params.ipt ∨ t.status = .halted then none else some (t.display, t.tone))

/-- No instruction reads the sound timer or the tone latch: with other values in them it does the same to everything
else (10_state.md R28 for the sound timer, R33 for the tone latch, R39 for who writes them). -/
def Obligations.SoundIsNeverRead : Prop :=
  ∀ (i : Instr) (s : State) (z : Byte) (b : Bool),
    ∃ t, exec i s = .next t ∧
      exec i { s with st := z, tone := b } =
        .next { t with st := if (∃ x, i = .ldStVx x) then t.st else z, tone := b }

/-! ### Reset and load -/

/-- Reset from any state, halted and waiting included, gives every field its value of 10_state.md R36, for every FONT;
the reset state is the one of the default parameters (70_reset_and_hazards.md R250, the spec's decision D15; the last
line is about the MODEL's own fields). -/
def Obligations.ResetFromAnyState : Prop :=
  State.resetWith Config.default = State.reset ∧
  ∀ s : State, ∃ t, s.applyReset = t ∧
    (∀ r, t.reg r = 0) ∧ t.pc = 0x0200 ∧ t.i = 0 ∧ (∀ k : Fin 16, t.stack[k] = 0) ∧ t.sp = 0 ∧ t.dt = 0 ∧ t.st = 0 ∧
    (∀ a : Nat, t.memory.read a =
      if 0x050 ≤ a ∧ a < 0x0A0 then s.params.font.toList.getD (a - 0x050) 0 else 0) ∧
    (∀ px py : Nat, t.display.pixel px py = false) ∧ t.status = .running ∧ t.faultCause = .none ∧ t.faultAddr = 0 ∧
    t.keys = 0 ∧ t.tone = false ∧ t.Inv ∧
    t.params = s.params ∧ t.slot = 0 ∧ t.keysIn = s.keysIn ∧ t.rndIn = s.rndIn ∧ t.phase = .awaitingLoad

/-- The load port between reset and the first tick: the whole program at its offset and nothing else, or, when it does
not fit, `ProgramTooLarge` and no byte (20_memory.md R66, the spec's decision D14; the phase is entry 23). -/
def Obligations.LoadIsAllOrNothing : Prop :=
  ∀ (s : State) (bytes : List Byte) (offset : Nat), s.memory.wf = true → s.phase = .awaitingLoad →
    (offset + bytes.length ≤ 0x1000 → ∃ t, s.load bytes offset = .next ⟨t, .none⟩ ∧
      (∀ a : Nat, t.memory.read a =
        if offset ≤ a ∧ a < offset + bytes.length then bytes.getD (a - offset) 0 else s.memory.read a) ∧
      t = { s with memory := t.memory, phase := .loaded } ∧ t.memory.wf = true) ∧
    (0x1000 < offset + bytes.length →
      s.load bytes offset = .next ⟨{ s with phase := .loaded }, .programTooLarge⟩)

/-- A second load, and a load after a tick has begun, are refused (93_implementation_defined.md U21; entry 23).
That a step is what begins a tick is entry 2. -/
def Obligations.LoadOnlyBeforeTheFirstTick : Prop :=
  (∀ (s : State) (bytes : List Byte) (offset : Nat), s.phase ≠ .awaitingLoad →
    s.load bytes offset = .refused .loadOutOfSequence) ∧
  (∀ s t : State, s.Inv → s.status ≠ .halted → step s = .next t → t.phase = .ticking)
end

