-- ==== Sys2Proof/Laws/Decode.lean ====
section
/-! SUPPORT. Words as numbers, format by format; the fields of encoded words; bytes against words. -/

namespace Sys2Proof

/-- Appending bit vectors is shifting and adding. -/
theorem append_toNat {m n : Nat} (a : BitVec m) (b : BitVec n) : (a ++ b).toNat = a.toNat * 2 ^ n + b.toNat := by
  rw [BitVec.toNat_append, ← Nat.shiftLeft_add_eq_or_of_lt b.isLt, Nat.shiftLeft_eq]

/-- The value of a word is `high * 256 + low` (20_memory.md R54). -/
theorem wordOfBytes_toNat (h l : Byte) : (wordOfBytes h l).toNat = h.toNat * 256 + l.toNat :=
  append_toNat h l

theorem wordA_toNat (op : BitVec 4) (nnn : Addr12) : (wordA op nnn).toNat = op.toNat * 4096 + nnn.toNat :=
  append_toNat op nnn

theorem wordXI_toNat (op : BitVec 4) (x : RegNum) (nn : Byte) :
    (wordXI op x nn).toNat = op.toNat * 4096 + x.val * 256 + nn.toNat := by
  refine (append_toNat (op ++ nibble x) nn).trans ?_
  rw [append_toNat]
  simp only [nibble, BitVec.toNat_ofFin]
  omega

theorem wordXYN_toNat (op : BitVec 4) (x y : RegNum) (low : Fin 16) :
    (wordXYN op x y low).toNat = op.toNat * 4096 + x.val * 256 + y.val * 16 + low.val := by
  refine (append_toNat (op ++ nibble x ++ nibble y) (nibble low)).trans ?_
  rw [append_toNat, append_toNat]
  simp only [nibble, BitVec.toNat_ofFin]
  omega

/-! The fields of any word as numbers (30_encoding.md R71). -/

theorem fieldOp_toNat (w : Word) : (fieldOp w).toNat = w.toNat / 4096 := by
  have := w.isLt
  simp only [fieldOp, BitVec.extractLsb'_toNat, Nat.shiftRight_eq_div_pow]
  omega

theorem fieldX_val (w : Word) : (fieldX w).val = w.toNat / 256 % 16 := by
  simp only [fieldX, BitVec.val_toFin, BitVec.extractLsb'_toNat, Nat.shiftRight_eq_div_pow]

theorem fieldY_val (w : Word) : (fieldY w).val = w.toNat / 16 % 16 := by
  simp only [fieldY, BitVec.val_toFin, BitVec.extractLsb'_toNat, Nat.shiftRight_eq_div_pow]

theorem fieldN_val (w : Word) : (fieldN w).val = w.toNat % 16 := by
  simp only [fieldN, BitVec.val_toFin, BitVec.extractLsb'_toNat, Nat.shiftRight_eq_div_pow]
  omega

theorem fieldNn_toNat (w : Word) : (fieldNn w).toNat = w.toNat % 256 := by
  simp only [fieldNn, BitVec.extractLsb'_toNat, Nat.shiftRight_eq_div_pow]
  omega

theorem fieldNnn_toNat (w : Word) : (fieldNnn w).toNat = w.toNat % 4096 := by
  simp only [fieldNnn, BitVec.extractLsb'_toNat, Nat.shiftRight_eq_div_pow]
  omega

theorem highByte_toNat (w : Word) : (highByte w).toNat = w.toNat / 256 := by
  have := w.isLt
  simp only [highByte, BitVec.extractLsb'_toNat, Nat.shiftRight_eq_div_pow]
  omega

theorem lowByte_toNat (w : Word) : (lowByte w).toNat = w.toNat % 256 := by
  simp only [lowByte, BitVec.extractLsb'_toNat, Nat.shiftRight_eq_div_pow]
  omega

/-- A word is the word of its two bytes. -/
@[simp] theorem wordOfBytes_bytes (w : Word) : wordOfBytes (highByte w) (lowByte w) = w := by
  apply BitVec.eq_of_toNat_eq
  rw [wordOfBytes_toNat, highByte_toNat, lowByte_toNat]
  omega

@[simp] theorem highByte_wordOfBytes (h l : Byte) : highByte (wordOfBytes h l) = h := by
  apply BitVec.eq_of_toNat_eq
  rw [highByte_toNat, wordOfBytes_toNat]
  omega

@[simp] theorem lowByte_wordOfBytes (h l : Byte) : lowByte (wordOfBytes h l) = l := by
  apply BitVec.eq_of_toNat_eq
  rw [lowByte_toNat, wordOfBytes_toNat]
  omega

section FormatA

variable (op : BitVec 4) (nnn : Addr12)

@[simp] theorem fieldOp_wordA : fieldOp (wordA op nnn) = op := by
  apply BitVec.eq_of_toNat_eq
  rw [fieldOp_toNat, wordA_toNat]
  omega

@[simp] theorem fieldNnn_wordA : fieldNnn (wordA op nnn) = nnn := by
  apply BitVec.eq_of_toNat_eq
  rw [fieldNnn_toNat, wordA_toNat]
  omega

end FormatA

section FormatXI

variable (op : BitVec 4) (x : RegNum) (nn : Byte)

@[simp] theorem fieldOp_wordXI : fieldOp (wordXI op x nn) = op := by
  apply BitVec.eq_of_toNat_eq
  rw [fieldOp_toNat, wordXI_toNat]
  omega

@[simp] theorem fieldX_wordXI : fieldX (wordXI op x nn) = x := by
  apply Fin.ext
  rw [fieldX_val, wordXI_toNat]
  omega

@[simp] theorem fieldNn_wordXI : fieldNn (wordXI op x nn) = nn := by
  apply BitVec.eq_of_toNat_eq
  rw [fieldNn_toNat, wordXI_toNat]
  omega

end FormatXI

section FormatXYN

variable (op : BitVec 4) (x y : RegNum) (low : Fin 16)

@[simp] theorem fieldOp_wordXYN : fieldOp (wordXYN op x y low) = op := by
  apply BitVec.eq_of_toNat_eq
  rw [fieldOp_toNat, wordXYN_toNat]
  omega

@[simp] theorem fieldX_wordXYN : fieldX (wordXYN op x y low) = x := by
  apply Fin.ext
  rw [fieldX_val, wordXYN_toNat]
  omega

@[simp] theorem fieldY_wordXYN : fieldY (wordXYN op x y low) = y := by
  apply Fin.ext
  rw [fieldY_val, wordXYN_toNat]
  omega

@[simp] theorem fieldN_wordXYN : fieldN (wordXYN op x y low) = low := by
  apply Fin.ext
  rw [fieldN_val, wordXYN_toNat]
  omega

end FormatXYN

end Sys2Proof
end

