-- ==== Sys2Proof/Laws/Memory.lean ====
section
/-! SUPPORT. The laws of main memory: reading after writing, the canonical form kept by every operation, equal
contents are equal lists, and runs of byte accesses. -/

namespace Sys2Proof.Machine

theorem Memory.read_cell (a : Nat) (b : Byte) (m : Memory) (c : Nat) (h : b = Memory.unlisted a → c = a → m.read a = b) :
    (Memory.cell a b m).read c = if c = a then b else m.read c := by
  unfold Memory.cell
  split
  · rename_i hb
    split
    · rename_i hc; rw [hc]; exact h hb hc
    · rfl
  · rfl

/-- An address below the listed ones reads as unlisted. -/
theorem Memory.read_below {lo : Nat} {m : Memory} (h : Memory.wfFrom lo m = true) {a : Nat} (ha : a < lo) :
    m.read a = Memory.unlisted a := by
  induction m generalizing lo with
  | nil => rfl
  | cons p rest ih =>
    obtain ⟨c, d⟩ := p
    simp only [Memory.wfFrom, Bool.and_eq_true, decide_eq_true_eq] at h
    simp only [Memory.read]
    rw [if_neg (by omega)]
    exact ih h.2 (by omega)

/-- A smaller bound is still a bound. -/
theorem Memory.wfFrom_mono {lo lo' : Nat} {m : Memory} (h : Memory.wfFrom lo m = true) (hl : lo' ≤ lo) :
    Memory.wfFrom lo' m = true := by
  cases m with
  | nil => rfl
  | cons p rest =>
    obtain ⟨c, d⟩ := p
    simp only [Memory.wfFrom, Bool.and_eq_true, decide_eq_true_eq] at h ⊢
    exact ⟨⟨⟨by omega, h.1.1.2⟩, h.1.2⟩, h.2⟩

theorem Memory.wfFrom_cell {lo a : Nat} {b : Byte} {m : Memory} (hl : lo ≤ a) (ha : a < memorySize)
    (h : Memory.wfFrom (a + 1) m = true) : Memory.wfFrom lo (Memory.cell a b m) = true := by
  unfold Memory.cell
  split
  · exact Memory.wfFrom_mono h (by omega)
  · rename_i hb; simp [Memory.wfFrom, hl, ha, hb, h]

theorem Memory.wfFrom_write {lo : Nat} {m : Memory} (h : Memory.wfFrom lo m = true) {a : Nat} (hl : lo ≤ a)
    (ha : a < memorySize) (b : Byte) : Memory.wfFrom lo (m.write a b) = true := by
  induction m generalizing lo with
  | nil => exact Memory.wfFrom_cell hl ha rfl
  | cons p rest ih =>
    obtain ⟨c, d⟩ := p
    have h' := h
    simp only [Memory.wfFrom, Bool.and_eq_true, decide_eq_true_eq] at h'
    simp only [Memory.write]
    split
    · rename_i hac
      refine Memory.wfFrom_cell hl ha ?_
      simp only [Memory.wfFrom, Bool.and_eq_true, decide_eq_true_eq]
      exact ⟨⟨⟨by omega, h'.1.1.2⟩, h'.1.2⟩, h'.2⟩
    · split
      · rename_i hac; subst hac
        exact Memory.wfFrom_cell hl ha h'.2
      · simp only [Memory.wfFrom, Bool.and_eq_true, decide_eq_true_eq]
        exact ⟨h'.1, ih h'.2 (by omega)⟩

/-- A write keeps the canonical form. -/
theorem Memory.wf_write {m : Memory} (h : m.wf = true) {a : Nat} (ha : a < memorySize) (b : Byte) :
    (m.write a b).wf = true :=
  Memory.wfFrom_write h (Nat.zero_le a) ha b

theorem Memory.read_write_from {lo : Nat} {m : Memory} (h : Memory.wfFrom lo m = true) (a : Nat) (b : Byte) (c : Nat) :
    (m.write a b).read c = if c = a then b else m.read c := by
  induction m generalizing lo with
  | nil => exact Memory.read_cell a b [] c (fun hb _ => hb.symm)
  | cons p rest ih =>
    obtain ⟨k, d⟩ := p
    have h' := h
    simp only [Memory.wfFrom, Bool.and_eq_true, decide_eq_true_eq] at h'
    simp only [Memory.write]
    split
    · rename_i hak
      refine Memory.read_cell a b _ c (fun hb _ => ?_)
      simp only [Memory.read]
      rw [if_neg (by omega), Memory.read_below h'.2 (by omega), hb]
    · split
      · rename_i hak; subst hak
        rw [Memory.read_cell a b rest c (fun hb _ => by rw [Memory.read_below h'.2 (by omega), hb])]
        simp only [Memory.read]
        split <;> rfl
      · simp only [Memory.read, ih h'.2]
        split
        · rename_i h1; rw [if_neg (by omega)]
        · rfl

/-- Read after write. -/
theorem Memory.read_write {m : Memory} (h : m.wf = true) (a : Nat) (b : Byte) (c : Nat) :
    (m.write a b).read c = if c = a then b else m.read c :=
  Memory.read_write_from h a b c

/-- A write leaves every other address alone, whatever the list. -/
theorem Memory.read_write_other (m : Memory) {a c : Nat} (b : Byte) (hc : c ≠ a) : (m.write a b).read c = m.read c := by
  have cell : ∀ m' : Memory, (Memory.cell a b m').read c = m'.read c := by
    intro m'
    unfold Memory.cell
    split
    · rfl
    · simp [Memory.read, hc]
  induction m with
  | nil => exact cell []
  | cons p rest ih =>
    obtain ⟨k, d⟩ := p
    simp only [Memory.write]
    split
    · exact cell _
    · split
      · rename_i hak; subst hak
        rw [cell]; simp [Memory.read, hc]
      · simp [Memory.read, ih]

theorem Memory.ext_from {lo : Nat} {m m' : Memory} (h : Memory.wfFrom lo m = true) (h' : Memory.wfFrom lo m' = true)
    (e : ∀ a, m.read a = m'.read a) : m = m' := by
  induction m generalizing lo m' with
  | nil =>
    cases m' with
    | nil => rfl
    | cons p rest =>
      obtain ⟨c, d⟩ := p
      simp only [Memory.wfFrom, Bool.and_eq_true, decide_eq_true_eq] at h'
      exact absurd (by simpa [Memory.read] using (e c).symm) h'.1.2
  | cons p rest ih =>
    obtain ⟨c, d⟩ := p
    have hc := h
    simp only [Memory.wfFrom, Bool.and_eq_true, decide_eq_true_eq] at hc
    cases m' with
    | nil => exact absurd (by simpa [Memory.read] using e c) hc.1.2
    | cons p' rest' =>
      obtain ⟨c', d'⟩ := p'
      have hc' := h'
      simp only [Memory.wfFrom, Bool.and_eq_true, decide_eq_true_eq] at hc'
      have key : c = c' := by
        rcases Nat.lt_trichotomy c c' with hlt | heq | hgt
        · have := e c
          simp only [Memory.read, if_true] at this
          rw [if_neg (by omega), Memory.read_below hc'.2 (by omega)] at this
          exact absurd this hc.1.2
        · exact heq
        · have := e c'
          simp only [Memory.read, if_true] at this
          rw [if_neg (by omega), Memory.read_below hc.2 (by omega)] at this
          exact absurd this.symm hc'.1.2
      subst key
      have hd : d = d' := by simpa [Memory.read] using e c
      subst hd
      have tails : rest = rest' := by
        refine ih hc.2 hc'.2 (fun a => ?_)
        by_cases ha : a = c
        · subst ha
          rw [Memory.read_below hc.2 (by omega), Memory.read_below hc'.2 (by omega)]
        · simpa [Memory.read, ha] using e a
      rw [tails]

/-- Equal contents in canonical form are equal data. -/
theorem Memory.ext_of_read {m m' : Memory} (h : m.wf = true) (h' : m'.wf = true) (e : ∀ a, m.read a = m'.read a) :
    m = m' :=
  Memory.ext_from h h' e

/-- Reset memory has the canonical form. -/
theorem Memory.wf_reset : State.reset.memory.wf = true := rfl

/-- All a run of reads can do: the bytes at rising addresses when the whole run exists, else nothing. -/
theorem Memory.loadN_eq (m : Memory) (a len : Nat) :
    m.loadN a len =
      if len = 0 ∨ a + len ≤ memorySize then some ((List.range len).map fun k => m.read (a + k)) else none := by
  induction len generalizing a with
  | zero => simp [Memory.loadN]
  | succ len ih =>
    simp only [Memory.loadN, Memory.load1, ih]
    by_cases h1 : a < memorySize
    · rw [if_pos h1]
      by_cases h2 : len = 0 ∨ a + 1 + len ≤ memorySize
      · rw [if_pos h2, if_pos (by omega)]
        simp [List.range_succ_eq_map, Function.comp_def, Nat.add_assoc, Nat.add_comm 1]
      · rw [if_neg h2, if_neg (by omega)]; rfl
    · have h2 : ¬ (len + 1 = 0 ∨ a + (len + 1) ≤ memorySize) := by omega
      rw [if_neg h1, if_neg h2]; rfl

/-- A run of writes succeeds when the whole run exists. -/
theorem Memory.storeN_isSome (m : Memory) (a : Nat) (bs : List Byte) (h : bs = [] ∨ a + bs.length ≤ memorySize) :
    ∃ m', m.storeN a bs = some m' := by
  induction bs generalizing m a with
  | nil => exact ⟨m, rfl⟩
  | cons b rest ih =>
    have ha : a + (rest.length + 1) ≤ memorySize := by simpa using h
    simp only [Memory.storeN, Memory.store1]
    rw [if_pos (by omega)]
    exact ih _ _ (Or.inr (by omega))

/-- All a run of writes can do: the bytes of the list at rising addresses, every other byte as before, and the
canonical form kept. -/
theorem Memory.storeN_spec {m m' : Memory} {a : Nat} {bs : List Byte} (h : m.storeN a bs = some m') (hw : m.wf = true) :
    m'.wf = true ∧ ∀ c, m'.read c = if hc : a ≤ c ∧ c < a + bs.length then bs[c - a]'(by omega) else m.read c := by
  induction bs generalizing m a with
  | nil =>
    simp only [Memory.storeN, Option.some.injEq] at h
    subst h
    refine ⟨hw, fun c => ?_⟩
    rw [dif_neg (by simp only [List.length_nil]; omega)]
  | cons b rest ih =>
    simp only [Memory.storeN, Memory.store1] at h
    by_cases ha : a < memorySize
    · rw [if_pos ha] at h
      obtain ⟨w, e⟩ := ih h (Memory.wf_write hw ha b)
      refine ⟨w, fun c => ?_⟩
      rw [e c]
      by_cases hc : a + 1 ≤ c ∧ c < a + 1 + rest.length
      · rw [dif_pos hc, dif_pos (by simp only [List.length_cons]; omega)]
        have : c - a = (c - (a + 1)) + 1 := by omega
        simp [this]
      · rw [dif_neg hc, Memory.read_write hw]
        by_cases hca : c = a
        · subst hca; rw [if_pos rfl, dif_pos (by simp only [List.length_cons]; omega)]; simp
        · rw [if_neg hca, dif_neg (by simp only [List.length_cons]; omega)]
    · rw [if_neg ha] at h; cases h

/-- A run of writes leaves every byte outside it alone, whatever the list. -/
theorem Memory.storeN_read_other {m m' : Memory} {a : Nat} {bs : List Byte} (h : m.storeN a bs = some m') {c : Nat}
    (hc : ¬ (a ≤ c ∧ c < a + bs.length)) : m'.read c = m.read c := by
  induction bs generalizing m a with
  | nil =>
    simp only [Memory.storeN, Option.some.injEq] at h
    rw [h]
  | cons b rest ih =>
    simp only [Memory.storeN, Memory.store1] at h
    simp only [List.length_cons] at hc
    by_cases ha : a < memorySize
    · rw [if_pos ha] at h
      rw [ih h (by omega), Memory.read_write_other m b (by omega)]
    · rw [if_neg ha] at h; cases h

/-- A fetch succeeds exactly up to 0xFFE. -/
theorem Memory.fetch_eq_some {m : Memory} {a w : Word} :
    m.fetch a = some w ↔ a.toNat ≤ 0xFFE ∧ w = wordOfBytes (m.read a.toNat) (m.read (a.toNat + 1)) := by
  unfold Memory.fetch
  split <;> simp_all [eq_comm]

theorem Memory.fetch_eq_none {m : Memory} {a : Word} : m.fetch a = none ↔ 0xFFE < a.toNat := by
  unfold Memory.fetch
  split <;> simp_all

/-- `CheckRange` passes exactly when the run is empty or exists whole. -/
theorem rangeOk_iff (a : Word) (len : Nat) : rangeOk a len = true ↔ len = 0 ∨ a.toNat + len ≤ memorySize := by
  simp only [rangeOk, Bool.not_eq_true', Bool.and_eq_false_imp, decide_eq_true_eq, decide_eq_false_iff_not, memorySize]
  omega

end Sys2Proof.Machine
end

