-- ==== Sys2Proof/Laws/State.lean ====
section
/-! SUPPORT. One lemma per field per named update of State, each true by unfolding once; later proofs do not unfold
the updates. -/

namespace Sys2Proof.Machine

section SetReg

variable (s : State) (r : RegNum) (b : Byte)

@[simp] theorem State.setReg_v : (s.setReg r b).v = s.v.set r.val b r.isLt := rfl
@[simp] theorem State.setReg_pc : (s.setReg r b).pc = s.pc := rfl
@[simp] theorem State.setReg_i : (s.setReg r b).i = s.i := rfl
@[simp] theorem State.setReg_stack : (s.setReg r b).stack = s.stack := rfl
@[simp] theorem State.setReg_sp : (s.setReg r b).sp = s.sp := rfl
@[simp] theorem State.setReg_dt : (s.setReg r b).dt = s.dt := rfl
@[simp] theorem State.setReg_st : (s.setReg r b).st = s.st := rfl
@[simp] theorem State.setReg_memory : (s.setReg r b).memory = s.memory := rfl
@[simp] theorem State.setReg_display : (s.setReg r b).display = s.display := rfl
@[simp] theorem State.setReg_status : (s.setReg r b).status = s.status := rfl
@[simp] theorem State.setReg_faultCause : (s.setReg r b).faultCause = s.faultCause := rfl
@[simp] theorem State.setReg_faultAddr : (s.setReg r b).faultAddr = s.faultAddr := rfl
@[simp] theorem State.setReg_keys : (s.setReg r b).keys = s.keys := rfl
@[simp] theorem State.setReg_tone : (s.setReg r b).tone = s.tone := rfl
@[simp] theorem State.setReg_params : (s.setReg r b).params = s.params := rfl
@[simp] theorem State.setReg_slot : (s.setReg r b).slot = s.slot := rfl
@[simp] theorem State.setReg_keysIn : (s.setReg r b).keysIn = s.keysIn := rfl
@[simp] theorem State.setReg_rndIn : (s.setReg r b).rndIn = s.rndIn := rfl
@[simp] theorem State.setReg_phase : (s.setReg r b).phase = s.phase := rfl

end SetReg

section Goto

variable (s : State) (target : Word)

@[simp] theorem State.goto_v : (s.goto target).v = s.v := rfl
@[simp] theorem State.goto_pc : (s.goto target).pc = target := rfl
@[simp] theorem State.goto_i : (s.goto target).i = s.i := rfl
@[simp] theorem State.goto_stack : (s.goto target).stack = s.stack := rfl
@[simp] theorem State.goto_sp : (s.goto target).sp = s.sp := rfl
@[simp] theorem State.goto_dt : (s.goto target).dt = s.dt := rfl
@[simp] theorem State.goto_st : (s.goto target).st = s.st := rfl
@[simp] theorem State.goto_memory : (s.goto target).memory = s.memory := rfl
@[simp] theorem State.goto_display : (s.goto target).display = s.display := rfl
@[simp] theorem State.goto_status : (s.goto target).status = s.status := rfl
@[simp] theorem State.goto_faultCause : (s.goto target).faultCause = s.faultCause := rfl
@[simp] theorem State.goto_faultAddr : (s.goto target).faultAddr = s.faultAddr := rfl
@[simp] theorem State.goto_keys : (s.goto target).keys = s.keys := rfl
@[simp] theorem State.goto_tone : (s.goto target).tone = s.tone := rfl
@[simp] theorem State.goto_params : (s.goto target).params = s.params := rfl
@[simp] theorem State.goto_slot : (s.goto target).slot = s.slot := rfl
@[simp] theorem State.goto_keysIn : (s.goto target).keysIn = s.keysIn := rfl
@[simp] theorem State.goto_rndIn : (s.goto target).rndIn = s.rndIn := rfl
@[simp] theorem State.goto_phase : (s.goto target).phase = s.phase := rfl

end Goto

section Advance

variable (s : State)

@[simp] theorem State.advance_v : (s.advance).v = s.v := rfl
@[simp] theorem State.advance_pc : (s.advance).pc = s.pc + 2 := rfl
@[simp] theorem State.advance_i : (s.advance).i = s.i := rfl
@[simp] theorem State.advance_stack : (s.advance).stack = s.stack := rfl
@[simp] theorem State.advance_sp : (s.advance).sp = s.sp := rfl
@[simp] theorem State.advance_dt : (s.advance).dt = s.dt := rfl
@[simp] theorem State.advance_st : (s.advance).st = s.st := rfl
@[simp] theorem State.advance_memory : (s.advance).memory = s.memory := rfl
@[simp] theorem State.advance_display : (s.advance).display = s.display := rfl
@[simp] theorem State.advance_status : (s.advance).status = s.status := rfl
@[simp] theorem State.advance_faultCause : (s.advance).faultCause = s.faultCause := rfl
@[simp] theorem State.advance_faultAddr : (s.advance).faultAddr = s.faultAddr := rfl
@[simp] theorem State.advance_keys : (s.advance).keys = s.keys := rfl
@[simp] theorem State.advance_tone : (s.advance).tone = s.tone := rfl
@[simp] theorem State.advance_params : (s.advance).params = s.params := rfl
@[simp] theorem State.advance_slot : (s.advance).slot = s.slot := rfl
@[simp] theorem State.advance_keysIn : (s.advance).keysIn = s.keysIn := rfl
@[simp] theorem State.advance_rndIn : (s.advance).rndIn = s.rndIn := rfl
@[simp] theorem State.advance_phase : (s.advance).phase = s.phase := rfl

end Advance

section SkipIf

variable (s : State) (c : Bool)

@[simp] theorem State.skipIf_v : (s.skipIf c).v = s.v := rfl
@[simp] theorem State.skipIf_pc : (s.skipIf c).pc = if c then s.pc + 4 else s.pc + 2 := rfl
@[simp] theorem State.skipIf_i : (s.skipIf c).i = s.i := rfl
@[simp] theorem State.skipIf_stack : (s.skipIf c).stack = s.stack := rfl
@[simp] theorem State.skipIf_sp : (s.skipIf c).sp = s.sp := rfl
@[simp] theorem State.skipIf_dt : (s.skipIf c).dt = s.dt := rfl
@[simp] theorem State.skipIf_st : (s.skipIf c).st = s.st := rfl
@[simp] theorem State.skipIf_memory : (s.skipIf c).memory = s.memory := rfl
@[simp] theorem State.skipIf_display : (s.skipIf c).display = s.display := rfl
@[simp] theorem State.skipIf_status : (s.skipIf c).status = s.status := rfl
@[simp] theorem State.skipIf_faultCause : (s.skipIf c).faultCause = s.faultCause := rfl
@[simp] theorem State.skipIf_faultAddr : (s.skipIf c).faultAddr = s.faultAddr := rfl
@[simp] theorem State.skipIf_keys : (s.skipIf c).keys = s.keys := rfl
@[simp] theorem State.skipIf_tone : (s.skipIf c).tone = s.tone := rfl
@[simp] theorem State.skipIf_params : (s.skipIf c).params = s.params := rfl
@[simp] theorem State.skipIf_slot : (s.skipIf c).slot = s.slot := rfl
@[simp] theorem State.skipIf_keysIn : (s.skipIf c).keysIn = s.keysIn := rfl
@[simp] theorem State.skipIf_rndIn : (s.skipIf c).rndIn = s.rndIn := rfl
@[simp] theorem State.skipIf_phase : (s.skipIf c).phase = s.phase := rfl

end SkipIf

section Raise

variable (s : State) (c : FaultCause)

@[simp] theorem State.raise_v : (s.raise c).v = s.v := rfl
@[simp] theorem State.raise_pc : (s.raise c).pc = s.pc := rfl
@[simp] theorem State.raise_i : (s.raise c).i = s.i := rfl
@[simp] theorem State.raise_stack : (s.raise c).stack = s.stack := rfl
@[simp] theorem State.raise_sp : (s.raise c).sp = s.sp := rfl
@[simp] theorem State.raise_dt : (s.raise c).dt = s.dt := rfl
@[simp] theorem State.raise_st : (s.raise c).st = s.st := rfl
@[simp] theorem State.raise_memory : (s.raise c).memory = s.memory := rfl
@[simp] theorem State.raise_display : (s.raise c).display = s.display := rfl
@[simp] theorem State.raise_status : (s.raise c).status = .halted := rfl
@[simp] theorem State.raise_faultCause : (s.raise c).faultCause = c := rfl
@[simp] theorem State.raise_faultAddr : (s.raise c).faultAddr = s.pc := rfl
@[simp] theorem State.raise_keys : (s.raise c).keys = s.keys := rfl
@[simp] theorem State.raise_tone : (s.raise c).tone = s.tone := rfl
@[simp] theorem State.raise_params : (s.raise c).params = s.params := rfl
@[simp] theorem State.raise_slot : (s.raise c).slot = s.slot := rfl
@[simp] theorem State.raise_keysIn : (s.raise c).keysIn = s.keysIn := rfl
@[simp] theorem State.raise_rndIn : (s.raise c).rndIn = s.rndIn := rfl
@[simp] theorem State.raise_phase : (s.raise c).phase = s.phase := rfl

end Raise

section LatchKeys

variable (s : State) (k : Word)

@[simp] theorem State.latchKeys_v : (s.latchKeys k).v = s.v := rfl
@[simp] theorem State.latchKeys_pc : (s.latchKeys k).pc = s.pc := rfl
@[simp] theorem State.latchKeys_i : (s.latchKeys k).i = s.i := rfl
@[simp] theorem State.latchKeys_stack : (s.latchKeys k).stack = s.stack := rfl
@[simp] theorem State.latchKeys_sp : (s.latchKeys k).sp = s.sp := rfl
@[simp] theorem State.latchKeys_dt : (s.latchKeys k).dt = s.dt := rfl
@[simp] theorem State.latchKeys_st : (s.latchKeys k).st = s.st := rfl
@[simp] theorem State.latchKeys_memory : (s.latchKeys k).memory = s.memory := rfl
@[simp] theorem State.latchKeys_display : (s.latchKeys k).display = s.display := rfl
@[simp] theorem State.latchKeys_status : (s.latchKeys k).status = s.status := rfl
@[simp] theorem State.latchKeys_faultCause : (s.latchKeys k).faultCause = s.faultCause := rfl
@[simp] theorem State.latchKeys_faultAddr : (s.latchKeys k).faultAddr = s.faultAddr := rfl
@[simp] theorem State.latchKeys_keys : (s.latchKeys k).keys = k := rfl
@[simp] theorem State.latchKeys_tone : (s.latchKeys k).tone = s.tone := rfl
@[simp] theorem State.latchKeys_params : (s.latchKeys k).params = s.params := rfl
@[simp] theorem State.latchKeys_slot : (s.latchKeys k).slot = s.slot := rfl
@[simp] theorem State.latchKeys_keysIn : (s.latchKeys k).keysIn = s.keysIn := rfl
@[simp] theorem State.latchKeys_rndIn : (s.latchKeys k).rndIn = s.rndIn := rfl
@[simp] theorem State.latchKeys_phase : (s.latchKeys k).phase = s.phase := rfl

end LatchKeys

section PollKeys

variable (s : State)

@[simp] theorem State.pollKeys_v : (s.pollKeys).v = s.v := rfl
@[simp] theorem State.pollKeys_pc : (s.pollKeys).pc = s.pc := rfl
@[simp] theorem State.pollKeys_i : (s.pollKeys).i = s.i := rfl
@[simp] theorem State.pollKeys_stack : (s.pollKeys).stack = s.stack := rfl
@[simp] theorem State.pollKeys_sp : (s.pollKeys).sp = s.sp := rfl
@[simp] theorem State.pollKeys_dt : (s.pollKeys).dt = s.dt := rfl
@[simp] theorem State.pollKeys_st : (s.pollKeys).st = s.st := rfl
@[simp] theorem State.pollKeys_memory : (s.pollKeys).memory = s.memory := rfl
@[simp] theorem State.pollKeys_display : (s.pollKeys).display = s.display := rfl
@[simp] theorem State.pollKeys_status : (s.pollKeys).status = s.status := rfl
@[simp] theorem State.pollKeys_faultCause : (s.pollKeys).faultCause = s.faultCause := rfl
@[simp] theorem State.pollKeys_faultAddr : (s.pollKeys).faultAddr = s.faultAddr := rfl
@[simp] theorem State.pollKeys_keys : (s.pollKeys).keys = s.nextKeys := rfl
@[simp] theorem State.pollKeys_tone : (s.pollKeys).tone = s.tone := rfl
@[simp] theorem State.pollKeys_params : (s.pollKeys).params = s.params := rfl
@[simp] theorem State.pollKeys_slot : (s.pollKeys).slot = s.slot := rfl
@[simp] theorem State.pollKeys_keysIn : (s.pollKeys).keysIn = s.keysIn.advance := rfl
@[simp] theorem State.pollKeys_rndIn : (s.pollKeys).rndIn = s.rndIn := rfl
@[simp] theorem State.pollKeys_phase : (s.pollKeys).phase = .ticking := rfl

end PollKeys

section TimerTick

variable (s : State)

@[simp] theorem State.timerTick_v : (s.timerTick).v = s.v := rfl
@[simp] theorem State.timerTick_pc : (s.timerTick).pc = s.pc := rfl
@[simp] theorem State.timerTick_i : (s.timerTick).i = s.i := rfl
@[simp] theorem State.timerTick_stack : (s.timerTick).stack = s.stack := rfl
@[simp] theorem State.timerTick_sp : (s.timerTick).sp = s.sp := rfl
@[simp] theorem State.timerTick_dt : (s.timerTick).dt = countDown s.dt := rfl
@[simp] theorem State.timerTick_st : (s.timerTick).st = countDown s.st := rfl
@[simp] theorem State.timerTick_memory : (s.timerTick).memory = s.memory := rfl
@[simp] theorem State.timerTick_display : (s.timerTick).display = s.display := rfl
@[simp] theorem State.timerTick_status : (s.timerTick).status = s.status := rfl
@[simp] theorem State.timerTick_faultCause : (s.timerTick).faultCause = s.faultCause := rfl
@[simp] theorem State.timerTick_faultAddr : (s.timerTick).faultAddr = s.faultAddr := rfl
@[simp] theorem State.timerTick_keys : (s.timerTick).keys = s.keys := rfl
@[simp] theorem State.timerTick_tone : (s.timerTick).tone = s.tone := rfl
@[simp] theorem State.timerTick_params : (s.timerTick).params = s.params := rfl
@[simp] theorem State.timerTick_slot : (s.timerTick).slot = s.slot := rfl
@[simp] theorem State.timerTick_keysIn : (s.timerTick).keysIn = s.keysIn := rfl
@[simp] theorem State.timerTick_rndIn : (s.timerTick).rndIn = s.rndIn := rfl
@[simp] theorem State.timerTick_phase : (s.timerTick).phase = s.phase := rfl

end TimerTick

section LatchTone

variable (s : State)

@[simp] theorem State.latchTone_v : (s.latchTone).v = s.v := rfl
@[simp] theorem State.latchTone_pc : (s.latchTone).pc = s.pc := rfl
@[simp] theorem State.latchTone_i : (s.latchTone).i = s.i := rfl
@[simp] theorem State.latchTone_stack : (s.latchTone).stack = s.stack := rfl
@[simp] theorem State.latchTone_sp : (s.latchTone).sp = s.sp := rfl
@[simp] theorem State.latchTone_dt : (s.latchTone).dt = s.dt := rfl
@[simp] theorem State.latchTone_st : (s.latchTone).st = s.st := rfl
@[simp] theorem State.latchTone_memory : (s.latchTone).memory = s.memory := rfl
@[simp] theorem State.latchTone_display : (s.latchTone).display = s.display := rfl
@[simp] theorem State.latchTone_status : (s.latchTone).status = s.status := rfl
@[simp] theorem State.latchTone_faultCause : (s.latchTone).faultCause = s.faultCause := rfl
@[simp] theorem State.latchTone_faultAddr : (s.latchTone).faultAddr = s.faultAddr := rfl
@[simp] theorem State.latchTone_keys : (s.latchTone).keys = s.keys := rfl
@[simp] theorem State.latchTone_tone : (s.latchTone).tone = decide (0 < s.st.toNat) := rfl
@[simp] theorem State.latchTone_params : (s.latchTone).params = s.params := rfl
@[simp] theorem State.latchTone_slot : (s.latchTone).slot = s.slot := rfl
@[simp] theorem State.latchTone_keysIn : (s.latchTone).keysIn = s.keysIn := rfl
@[simp] theorem State.latchTone_rndIn : (s.latchTone).rndIn = s.rndIn := rfl
@[simp] theorem State.latchTone_phase : (s.latchTone).phase = s.phase := rfl

end LatchTone

/-- Reading back a register write. -/
theorem State.setReg_reg (s : State) (r q : RegNum) (b : Byte) :
    (s.setReg r b).reg q = if q = r then b else s.reg q := by
  simp only [State.reg, State.setReg_v, Fin.getElem_fin, Vector.getElem_set, Fin.ext_iff, eq_comm (a := r.val)]

@[simp] theorem State.setReg_reg_same (s : State) (r : RegNum) (b : Byte) : (s.setReg r b).reg r = b := by
  simp [State.setReg_reg]

/-- Registers read the same in states with the same register file. -/
theorem State.reg_congr {s t : State} (h : t.v = s.v) (r : RegNum) : t.reg r = s.reg r := by
  simp [State.reg, h]

@[simp] theorem State.goto_reg (s : State) (w : Word) (r : RegNum) : (s.goto w).reg r = s.reg r := rfl
@[simp] theorem State.advance_reg (s : State) (r : RegNum) : s.advance.reg r = s.reg r := rfl
@[simp] theorem State.skipIf_reg (s : State) (c : Bool) (r : RegNum) : (s.skipIf c).reg r = s.reg r := rfl
@[simp] theorem State.raise_reg (s : State) (c : FaultCause) (r : RegNum) : (s.raise c).reg r = s.reg r := rfl

end Sys2Proof.Machine
end

