-- ==== Sys2Proof/Laws/Ops.lean ====
section
/-! SUPPORT. What each shared operation can do, said once. -/

namespace Sys2Proof.Machine

/-- The bytes `CheckRange` guards, as memory holds them. -/
def State.bytesAtI (s : State) (len : Nat) : List Byte :=
  (List.range len).map fun k => s.memory.read (s.i.toNat + k)

/-- A guarded read answers a next state in every case: the continuation on the bytes at `I`, or the raise. -/
theorem withLoad_eq (len : Nat) (s : State) (k : List Byte → State) :
    withLoad len s k =
      .next (if rangeOk s.i len then k (s.bytesAtI len) else s.raise .dataAccessOutOfBounds) := by
  unfold withLoad
  split
  · rename_i h
    rw [Memory.loadN_eq, if_pos ((rangeOk_iff _ _).1 h)]
    rfl
  · rfl

/-- A guarded store answers a next state in every case: the store and the advance, or the raise. -/
theorem withStore_cases (bytes : List Byte) (s : State) :
    (rangeOk s.i bytes.length = true ∧ ∃ m, s.memory.storeN s.i.toNat bytes = some m ∧
        withStore bytes s = .next { s with memory := m }.advance) ∨
    (rangeOk s.i bytes.length = false ∧ withStore bytes s = .next (s.raise .dataAccessOutOfBounds)) := by
  cases h : rangeOk s.i bytes.length with
  | true =>
    have hr := (rangeOk_iff _ _).1 h
    obtain ⟨m, hm⟩ := Memory.storeN_isSome s.memory s.i.toNat bytes
      (hr.imp (fun h0 => List.length_eq_zero_iff.1 h0) id)
    exact .inl ⟨rfl, m, hm, by simp [withStore, h, hm]⟩
  | false => exact .inr ⟨rfl, by simp [withStore, h]⟩

/-- A push either fills the next free slot or finds the stack full. -/
theorem State.push_cases (s : State) (ret : Word) :
    (∃ h : s.sp.val < 16, s.push ret =
        some { s with stack := s.stack.set s.sp.val ret h, sp := ⟨s.sp.val + 1, by omega⟩ }) ∨
    (s.sp = 16 ∧ s.push ret = none) := by
  by_cases h : s.sp.val < 16
  · exact .inl ⟨h, by simp [State.push, h]⟩
  · refine .inr ⟨?_, by simp [State.push, h]⟩
    have := s.sp.isLt
    exact Fin.ext (show s.sp.val = 16 by omega)

/-- A pop either takes the newest slot or finds the stack empty. -/
theorem State.pop_cases (s : State) :
    (∃ h : 0 < s.sp.val, s.pop =
        some (s.stack[s.sp.val - 1]'(by omega), { s with sp := ⟨s.sp.val - 1, by omega⟩ })) ∨
    (s.sp = 0 ∧ s.pop = none) := by
  by_cases h : 0 < s.sp.val
  · exact .inl ⟨h, by simp [State.pop, h]⟩
  · refine .inr ⟨?_, by simp [State.pop, h]⟩
    exact Fin.ext (show s.sp.val = 0 by omega)

/-- A run of register writes changes the register file only. -/
theorem State.setRegsFrom_eq (s : State) (r : Nat) (bs : List Byte) :
    s.setRegsFrom r bs = { s with v := (s.setRegsFrom r bs).v } := by
  induction bs generalizing s r with
  | nil => rfl
  | cons b rest ih =>
    simp only [State.setRegsFrom]
    split
    · rw [ih]; rfl
    · rfl

/-- A run of register writes puts byte `q - r` in register `q` of the run and leaves the others. -/
theorem State.setRegsFrom_reg (s : State) (r : Nat) (bs : List Byte) (q : RegNum) :
    (s.setRegsFrom r bs).reg q =
      if h : r ≤ q.val ∧ q.val < r + bs.length then bs[q.val - r]'(by omega) else s.reg q := by
  induction bs generalizing s r with
  | nil => rw [dif_neg (by simp only [List.length_nil]; omega)]; rfl
  | cons b rest ih =>
    have hq := q.isLt
    simp only [State.setRegsFrom, List.length_cons]
    by_cases hr : r < 16
    · rw [dif_pos hr, ih]
      by_cases h1 : r + 1 ≤ q.val ∧ q.val < r + 1 + rest.length
      · have : q.val - r = (q.val - (r + 1)) + 1 := by omega
        rw [dif_pos h1, dif_pos (by omega)]
        simp [this]
      · rw [dif_neg h1, State.setReg_reg]
        by_cases h2 : q.val = r
        · rw [if_pos (Fin.ext h2), dif_pos (by omega)]
          simp [h2]
        · rw [if_neg (fun e => h2 (congrArg Fin.val e)), dif_neg (by omega)]
    · rw [dif_neg hr, dif_neg (by omega)]

/-- The lowest key is down, and no lower one is. -/
theorem lowestKey_eq_some {keys : Word} {k : RegNum} (h : lowestKey keys = some k) :
    keys.getLsbD k.val = true ∧ ∀ j : RegNum, j < k → keys.getLsbD j.val = false := by
  unfold lowestKey at h
  rw [List.find?_eq_some_iff_getElem] at h
  obtain ⟨hk, n, hn, e, hlt⟩ := h
  refine ⟨hk, fun j hj => ?_⟩
  have hn' : n < 16 := by simpa using hn
  have ek : n = k.val := by simpa using congrArg Fin.val e
  have := hlt j.val (by rw [ek]; exact hj)
  simpa using this

/-- No key is down exactly when the latch is 0. -/
theorem lowestKey_eq_none {keys : Word} : lowestKey keys = none ↔ keys = 0 := by
  unfold lowestKey
  rw [List.find?_eq_none]
  constructor
  · intro h
    apply BitVec.eq_of_getLsbD_eq
    intro i hi
    simpa using h ⟨i, hi⟩ (List.mem_finRange _)
  · rintro rfl x -
    simp

end Sys2Proof.Machine
end

