-- ==== Sys2Proof/Laws/Engine.lean ====
section
/-! SUPPORT. What the engine and the scheduler can do, said once, and that `withFetchWord` makes the next step run the
word it places. -/

namespace Sys2Proof.Machine

/-- The next keys value is the oldest supplied one. -/
theorem InPort.sample_cons {w : Nat} (free : Nat → BitVec w) (b : BitVec w) (rest : List (BitVec w)) (n : Nat) :
    InPort.sample free ⟨b :: rest, n⟩ = b := rfl

/-- Past the supplied values a sample is the free value of its draw. -/
theorem InPort.sample_nil {w : Nat} (free : Nat → BitVec w) (n : Nat) : InPort.sample free ⟨[], n⟩ = free n := rfl

/-- Counting down is subtraction that stops at 0. -/
theorem countDown_toNat (t : Byte) : (countDown t).toNat = t.toNat - 1 := by
  unfold countDown
  split
  · rename_i h; subst h; rfl
  · rename_i h
    have h0 : t.toNat ≠ 0 := fun e => h (BitVec.eq_of_toNat_eq e)
    have := t.isLt
    have h1 : (1 : Byte).toNat = 1 := rfl
    rw [BitVec.toNat_sub, h1]
    omega

/-- What one slot can do: nothing when halted, the fetch fault, the decoded instruction, or the advance over an
unrecognised word. -/
theorem slotStep_cases (s : State) :
    (s.status = .halted ∧ slotStep s = .next s) ∨
    (s.status ≠ .halted ∧ s.memory.fetch s.pc = none ∧ slotStep s = .next (s.raise .fetchOutOfBounds)) ∨
    (∃ w i, s.status ≠ .halted ∧ s.memory.fetch s.pc = some w ∧ decodeWord w = .ok i ∧ slotStep s = exec i s) ∨
    (∃ w e, s.status ≠ .halted ∧ s.memory.fetch s.pc = some w ∧ decodeWord w = .error e ∧
      slotStep s = .next s.advance) := by
  by_cases h : s.status = .halted
  · exact .inl ⟨h, by simp [slotStep, h]⟩
  · cases hf : s.memory.fetch s.pc with
    | none => exact .inr (.inl ⟨h, rfl, by simp [slotStep, h, hf]⟩)
    | some w =>
      cases hd : decodeWord w with
      | ok i => exact .inr (.inr (.inl ⟨w, i, h, rfl, hd, by simp [slotStep, h, hf, hd]⟩))
      | error e => exact .inr (.inr (.inr ⟨w, e, h, rfl, hd, by simp [slotStep, h, hf, hd]⟩))

/-- What comes before a slot changes the key latch and the MODEL's port and phase only. -/
theorem State.beginSlot_eq (s : State) :
    s.beginSlot = { s with keys := s.beginSlot.keys, keysIn := s.beginSlot.keysIn, phase := s.beginSlot.phase } := by
  unfold State.beginSlot
  split <;> rfl

/-- What comes after a slot changes the timers, the tone latch and the position only. -/
theorem State.endSlot_eq (s : State) :
    s.endSlot = { s with dt := s.endSlot.dt, st := s.endSlot.st, tone := s.endSlot.tone, slot := s.endSlot.slot } := by
  unfold State.endSlot
  split
  · rfl
  · split <;> rfl

/-- What one step can do. -/
theorem step_cases (s : State) :
    (s.status = .halted ∧ step s = .next s) ∨
    (s.status ≠ .halted ∧ s.params.ipt = 0 ∧ step s = .next s.pollKeys.endTick) ∨
    (s.status ≠ .halted ∧ s.params.ipt ≠ 0 ∧ ∃ t, slotStep s.beginSlot = .next t ∧ step s = .next t.endSlot) ∨
    (s.status ≠ .halted ∧ s.params.ipt ≠ 0 ∧ ∃ r, slotStep s.beginSlot = .fault r ∧ step s = .fault r) ∨
    (s.status ≠ .halted ∧ s.params.ipt ≠ 0 ∧ ∃ r, slotStep s.beginSlot = .refused r ∧ step s = .refused r) := by
  by_cases h : s.status = .halted
  · exact .inl ⟨h, by simp [step, schedulerStep, h]⟩
  · by_cases hi : s.params.ipt = 0
    · exact .inr (.inl ⟨h, hi, by simp [step, schedulerStep, h, hi]⟩)
    · cases hs : slotStep s.beginSlot with
      | next t => exact .inr (.inr (.inl ⟨h, hi, t, rfl, by simp [step, schedulerStep, h, hi, hs]⟩))
      | fault r => exact .inr (.inr (.inr (.inl ⟨h, hi, r, rfl, by simp [step, schedulerStep, h, hi, hs]⟩)))
      | refused r => exact .inr (.inr (.inr (.inr ⟨h, hi, r, rfl, by simp [step, schedulerStep, h, hi, hs]⟩)))

/-- A placed word is what the next fetch reads. -/
theorem fetch_placeWord {s : State} (hw : s.memory.wf = true) (w : Word) :
    (s.placeWord w).memory.fetch (s.placeWord w).pc = some w := by
  have hpc : s.fetching.pc.toNat ≤ 0xFFE := by
    simp only [State.fetching]
    split
    · assumption
    · decide
  have hwf : (s.fetching.memory.write s.fetching.pc.toNat (highByte w)).wf = true :=
    Memory.wf_write hw (by simp only [memorySize]; omega) _
  rw [Memory.fetch_eq_some]
  refine ⟨hpc, ?_⟩
  simp only [State.placeWord]
  rw [Memory.read_write hwf, Memory.read_write hwf, if_neg (by omega), if_pos rfl,
    Memory.read_write (m := s.fetching.memory) hw, if_pos rfl, wordOfBytes_bytes]

/-- The next step of a machine with a placed instruction runs that instruction. -/
theorem slotStep_placeWord {s : State} (hw : s.memory.wf = true) {w : Word} {i : Instr} (hd : decodeWord w = .ok i) :
    slotStep (s.placeWord w).beginSlot = exec i (s.placeWord w).beginSlot := by
  have hs : (s.placeWord w).beginSlot.status ≠ .halted := by
    rw [State.beginSlot_eq]
    simp only [State.placeWord, State.fetching]
    split
    · decide
    · assumption
  have hf : (s.placeWord w).beginSlot.memory.fetch (s.placeWord w).beginSlot.pc = some w := by
    rw [State.beginSlot_eq]
    exact fetch_placeWord hw w
  simp [slotStep, hs, hf, hd]

end Sys2Proof.Machine
end

