-- ==== Sys2Proof/WellFormed.lean ====
section
/-! DEFINITION. The operand check (30_encoding.md R71, R73, R79): an operand written as a plain number is admitted
only when its field can hold it. `Instr` carries the bounds in its types, so every term of it passes the check
(Laws/PerInstr.lean); the check itself is what refuses a number an assembler would have to refuse. -/

namespace Sys2Proof

/-- The operand fields of R71 that an instruction's text can name. -/
inductive OperandKind
  | reg | rows | imm | addr
deriving DecidableEq, Repr

/-- One more than the largest value the field holds: 4 bits, 4 bits, 8 bits, 12 bits (R71). -/
def OperandKind.bound : OperandKind → Nat
  | .reg => 16
  | .rows => 16
  | .imm => 256
  | .addr => 4096

/-- An operand as a plain number with the field it goes into. -/
structure Operand where
  kind : OperandKind
  value : Nat
deriving DecidableEq, Repr

/-- The field can hold the operand. -/
def Operand.fits (o : Operand) : Bool := decide (o.value < o.kind.bound)

/-- Every operand of the list fits its field. -/
def operandsFit (os : List Operand) : Bool := os.all Operand.fits

/-- The operands of an instruction as plain numbers, in the order of its assembler form (R79). -/
def Instr.operands : Instr → List Operand
  | .cls | .ret => []
  | .jp a | .call a | .ldI a | .jpV0 a => [⟨.addr, a.toNat⟩]
  | .seImm x n | .sneImm x n | .ldImm x n | .addImm x n | .rnd x n => [⟨.reg, x.val⟩, ⟨.imm, n.toNat⟩]
  | .seReg x y | .sneReg x y | .ldReg x y | .orReg x y | .andReg x y | .xorReg x y | .addReg x y | .subReg x y
  | .shr x y | .subn x y | .shl x y => [⟨.reg, x.val⟩, ⟨.reg, y.val⟩]
  | .drw x y n => [⟨.reg, x.val⟩, ⟨.reg, y.val⟩, ⟨.rows, n.val⟩]
  | .skp x | .sknp x | .ldVxDt x | .ldVxK x | .ldDtVx x | .ldStVx x | .addI x | .ldF x | .ldB x | .storeRegs x
  | .loadRegs x => [⟨.reg, x.val⟩]

/-- Every operand of the instruction fits its field. -/
def Instr.wellFormed (i : Instr) : Bool := operandsFit i.operands

end Sys2Proof
end

