-- ==== Sys2Proof/Laws/PerInstr.lean ====
section
/-! SUPPORT. Statements made per instruction. Family `OperandsInRange`: every operand of the instruction fits the field
of 30_encoding.md R71 it goes into. -/

/-- The check of WellFormed.lean passes. -/
def Sys2Proof.Laws.OperandsInRange.Statement (i : Sys2Proof.Instr) : Prop := i.wellFormed = true

namespace Sys2Proof.Laws.OperandsInRange

/-- A register operand fits. -/
theorem reg_fits (x : RegNum) : Operand.fits ⟨.reg, x.val⟩ = true := decide_eq_true x.isLt

/-- A row count fits. -/
theorem rows_fits (n : Fin 16) : Operand.fits ⟨.rows, n.val⟩ = true := decide_eq_true n.isLt

/-- An 8-bit immediate fits. -/
theorem imm_fits (n : Byte) : Operand.fits ⟨.imm, n.toNat⟩ = true := decide_eq_true n.isLt

/-- A 12-bit address fits. -/
theorem addr_fits (a : Addr12) : Operand.fits ⟨.addr, a.toNat⟩ = true := decide_eq_true a.isLt

theorem cls : Statement .cls :=
  rfl

theorem ret : Statement .ret :=
  rfl

theorem jp (nnn : Addr12) : Statement (.jp nnn) :=
  by simp [Statement, Instr.wellFormed, Instr.operands, operandsFit, addr_fits]

theorem call (nnn : Addr12) : Statement (.call nnn) :=
  by simp [Statement, Instr.wellFormed, Instr.operands, operandsFit, addr_fits]

theorem seImm (x : RegNum) (nn : Byte) : Statement (.seImm x nn) :=
  by simp [Statement, Instr.wellFormed, Instr.operands, operandsFit, reg_fits, imm_fits]

theorem sneImm (x : RegNum) (nn : Byte) : Statement (.sneImm x nn) :=
  by simp [Statement, Instr.wellFormed, Instr.operands, operandsFit, reg_fits, imm_fits]

theorem seReg (x y : RegNum) : Statement (.seReg x y) :=
  by simp [Statement, Instr.wellFormed, Instr.operands, operandsFit, reg_fits]

theorem ldImm (x : RegNum) (nn : Byte) : Statement (.ldImm x nn) :=
  by simp [Statement, Instr.wellFormed, Instr.operands, operandsFit, reg_fits, imm_fits]

theorem addImm (x : RegNum) (nn : Byte) : Statement (.addImm x nn) :=
  by simp [Statement, Instr.wellFormed, Instr.operands, operandsFit, reg_fits, imm_fits]

theorem ldReg (x y : RegNum) : Statement (.ldReg x y) :=
  by simp [Statement, Instr.wellFormed, Instr.operands, operandsFit, reg_fits]

theorem orReg (x y : RegNum) : Statement (.orReg x y) :=
  by simp [Statement, Instr.wellFormed, Instr.operands, operandsFit, reg_fits]

theorem andReg (x y : RegNum) : Statement (.andReg x y) :=
  by simp [Statement, Instr.wellFormed, Instr.operands, operandsFit, reg_fits]

theorem xorReg (x y : RegNum) : Statement (.xorReg x y) :=
  by simp [Statement, Instr.wellFormed, Instr.operands, operandsFit, reg_fits]

theorem addReg (x y : RegNum) : Statement (.addReg x y) :=
  by simp [Statement, Instr.wellFormed, Instr.operands, operandsFit, reg_fits]

theorem subReg (x y : RegNum) : Statement (.subReg x y) :=
  by simp [Statement, Instr.wellFormed, Instr.operands, operandsFit, reg_fits]

theorem shr (x y : RegNum) : Statement (.shr x y) :=
  by simp [Statement, Instr.wellFormed, Instr.operands, operandsFit, reg_fits]

theorem subn (x y : RegNum) : Statement (.subn x y) :=
  by simp [Statement, Instr.wellFormed, Instr.operands, operandsFit, reg_fits]

theorem shl (x y : RegNum) : Statement (.shl x y) :=
  by simp [Statement, Instr.wellFormed, Instr.operands, operandsFit, reg_fits]

theorem sneReg (x y : RegNum) : Statement (.sneReg x y) :=
  by simp [Statement, Instr.wellFormed, Instr.operands, operandsFit, reg_fits]

theorem ldI (nnn : Addr12) : Statement (.ldI nnn) :=
  by simp [Statement, Instr.wellFormed, Instr.operands, operandsFit, addr_fits]

theorem jpV0 (nnn : Addr12) : Statement (.jpV0 nnn) :=
  by simp [Statement, Instr.wellFormed, Instr.operands, operandsFit, addr_fits]

theorem rnd (x : RegNum) (nn : Byte) : Statement (.rnd x nn) :=
  by simp [Statement, Instr.wellFormed, Instr.operands, operandsFit, reg_fits, imm_fits]

theorem drw (x y : RegNum) (n : Fin 16) : Statement (.drw x y n) :=
  by simp [Statement, Instr.wellFormed, Instr.operands, operandsFit, reg_fits, rows_fits]

theorem skp (x : RegNum) : Statement (.skp x) :=
  by simp [Statement, Instr.wellFormed, Instr.operands, operandsFit, reg_fits]

theorem sknp (x : RegNum) : Statement (.sknp x) :=
  by simp [Statement, Instr.wellFormed, Instr.operands, operandsFit, reg_fits]

theorem ldVxDt (x : RegNum) : Statement (.ldVxDt x) :=
  by simp [Statement, Instr.wellFormed, Instr.operands, operandsFit, reg_fits]

theorem ldVxK (x : RegNum) : Statement (.ldVxK x) :=
  by simp [Statement, Instr.wellFormed, Instr.operands, operandsFit, reg_fits]

theorem ldDtVx (x : RegNum) : Statement (.ldDtVx x) :=
  by simp [Statement, Instr.wellFormed, Instr.operands, operandsFit, reg_fits]

theorem ldStVx (x : RegNum) : Statement (.ldStVx x) :=
  by simp [Statement, Instr.wellFormed, Instr.operands, operandsFit, reg_fits]

theorem addI (x : RegNum) : Statement (.addI x) :=
  by simp [Statement, Instr.wellFormed, Instr.operands, operandsFit, reg_fits]

theorem ldF (x : RegNum) : Statement (.ldF x) :=
  by simp [Statement, Instr.wellFormed, Instr.operands, operandsFit, reg_fits]

theorem ldB (x : RegNum) : Statement (.ldB x) :=
  by simp [Statement, Instr.wellFormed, Instr.operands, operandsFit, reg_fits]

theorem storeRegs (x : RegNum) : Statement (.storeRegs x) :=
  by simp [Statement, Instr.wellFormed, Instr.operands, operandsFit, reg_fits]

theorem loadRegs (x : RegNum) : Statement (.loadRegs x) :=
  by simp [Statement, Instr.wellFormed, Instr.operands, operandsFit, reg_fits]

end Sys2Proof.Laws.OperandsInRange
end

