-- ==== Sys2Proof/Laws/Ports.lean ====
section
/-! SUPPORT. What writing a font over the default one can do. -/

namespace Sys2Proof.Machine

/-- The bytes of the font at rising addresses, every other byte as before, and the canonical form kept. -/
theorem writeFont_spec (a : Nat) (bs : List Byte) (m : Memory) (hw : m.wf = true) (h : a + bs.length ≤ memorySize) :
    (writeFont m a bs).wf = true ∧ ∀ c, (writeFont m a bs).read c = if a ≤ c ∧ c < a + bs.length then bs.getD (c - a) 0 else m.read c := by
  induction bs generalizing a m with
  | nil => exact ⟨hw, fun c => by rw [if_neg (by simp only [List.length_nil]; omega)]; rfl⟩
  | cons b rest ih =>
    simp only [List.length_cons] at h
    obtain ⟨w, r⟩ := ih (a+1) (m.write a b) (Memory.wf_write hw (by omega) b) (by omega)
    refine ⟨w, fun c => ?_⟩
    show (writeFont (m.write a b) (a+1) rest).read c = _
    rw [r, Memory.read_write hw]
    simp only [List.length_cons]
    by_cases h1 : c = a
    · subst h1; rw [if_neg (by omega), if_pos rfl, if_pos (by omega)]; simp
    · by_cases h2 : a + 1 ≤ c ∧ c < a + 1 + rest.length
      · rw [if_pos h2, if_pos (by omega), show c - a = (c - (a+1)) + 1 by omega]; simp
      · rw [if_neg h2, if_neg h1, if_neg (by omega)]

end Sys2Proof.Machine
end

