-- ==== Sys2Proof/Laws/Screen.lean ====
section
/-! SUPPORT. Pixels: reading after setting, and displays equal pixel by pixel. -/

namespace Sys2Proof.Machine

/-- Reading a pixel after setting one. -/
theorem Display.pixel_setPixel (d : Display) (px py : Nat) (b : Bool) (qx qy : Nat) :
    (d.setPixel px py b).pixel qx qy =
      if qx = px ∧ qy = py ∧ px < 64 ∧ py < 32 then b else d.pixel qx qy := by
  unfold Display.setPixel
  by_cases hp : py < 32 ∧ px < 64
  · rw [dif_pos hp]
    unfold Display.pixel
    by_cases hq : qy < 32 ∧ qx < 64
    · rw [dif_pos hq, dif_pos hq]
      by_cases hy : qy = py
      · subst hy
        by_cases hx : qx = px
        · subst hx; simp [hq]
        · simp [hx, Ne.symm hx]
      · simp [hy, Ne.symm hy]
    · rw [dif_neg hq, dif_neg hq, if_neg (by omega)]
  · rw [dif_neg hp, if_neg (by omega)]

/-- Displays with the same pixels are the same display. -/
theorem Display.ext_of_pixel {d e : Display} (h : ∀ px py, px < 64 → py < 32 → d.pixel px py = e.pixel px py) :
    d = e := by
  apply Vector.ext
  intro y hy
  apply Vector.ext
  intro x hx
  have := h x y hx hy
  simpa [Display.pixel, hx, hy] using this

/-- A blank display has no pixel set. -/
@[simp] theorem blankDisplay_pixel (px py : Nat) : blankDisplay.pixel px py = false := by
  simp [Display.pixel, blankDisplay]

/-- The columns of one sprite row: the display is XORed with the row's bits, clipped at the right edge, and the hit flag
tells whether one of them met a set pixel. -/
theorem blitColumns_spec (sprite : Byte) (py : Nat) (hpy : py < 32) (left px : Nat) (b : Blit) :
    (∀ qx qy, (blitColumns sprite py px left b).display.pixel qx qy =
      (b.display.pixel qx qy ^^ (decide (qy = py ∧ px ≤ qx ∧ qx < px + left ∧ qx < 64) && sprite.getLsbD (left - 1 - (qx - px))))) ∧
    ((blitColumns sprite py px left b).hit = true ↔ b.hit = true ∨
      ∃ qx, px ≤ qx ∧ qx < px + left ∧ qx < 64 ∧ sprite.getLsbD (left - 1 - (qx - px)) = true ∧ b.display.pixel qx py = true) := by
  induction left generalizing px b with
  | zero =>
    simp only [blitColumns]
    refine ⟨fun qx qy => ?_, ?_⟩
    · rw [decide_eq_false (by omega)]; simp
    · constructor
      · exact Or.inl
      · rintro (h | ⟨q, h1, h2, _⟩); exact h; omega
  | succ left ih =>
    simp only [blitColumns]
    by_cases hx : 64 ≤ px
    · rw [if_pos hx]
      refine ⟨fun qx qy => ?_, ?_⟩
      · rw [decide_eq_false (by omega)]; simp
      · constructor
        · exact Or.inl
        · rintro (h | ⟨q, h1, h2, h3, _⟩); exact h; omega
    · rw [if_neg hx]
      have hfl : ∀ qx qy, (b.flip px py).display.pixel qx qy = (b.display.pixel qx qy ^^ decide (qx = px ∧ qy = py)) := by
        intro qx qy
        unfold Blit.flip
        by_cases hb : b.display.pixel px py = true
        · rw [if_pos hb]; simp only [Display.pixel_setPixel]
          by_cases hq : qx = px ∧ qy = py
          · rw [if_pos ⟨hq.1, hq.2, by omega, by omega⟩, decide_eq_true hq, hq.1, hq.2, hb]; rfl
          · rw [if_neg (fun h => hq ⟨h.1, h.2.1⟩), decide_eq_false hq]; simp
        · rw [if_neg hb]; simp only [Display.pixel_setPixel]
          by_cases hq : qx = px ∧ qy = py
          · rw [if_pos ⟨hq.1, hq.2, by omega, by omega⟩, decide_eq_true hq, hq.1, hq.2]; simp [hb]
          · rw [if_neg (fun h => hq ⟨h.1, h.2.1⟩), decide_eq_false hq]; simp
      have hhit : (b.flip px py).hit = true ↔ b.hit = true ∨ b.display.pixel px py = true := by
        unfold Blit.flip
        split <;> simp_all
      obtain ⟨i1, i2⟩ := ih (px + 1) (if sprite.getLsbD left = true then b.flip px py else b)
      constructor
      · intro qx qy
        rw [i1]
        by_cases hq : qx = px
        · subst hq
          rw [decide_eq_false (by omega)]
          simp only [Bool.false_and, Bool.xor_false]
          have e : left + 1 - 1 - (qx - qx) = left := by omega
          rw [e]
          by_cases hs : sprite.getLsbD left = true
          · rw [if_pos hs, hfl, hs]
            by_cases hy : qy = py
            · rw [decide_eq_true ⟨rfl, hy⟩, decide_eq_true (by omega)]; simp
            · rw [decide_eq_false (by tauto), decide_eq_false (by tauto)]; simp
          · rw [if_neg hs]; simp [hs]
        · have e : (if sprite.getLsbD left = true then b.flip px py else b).display.pixel qx qy = b.display.pixel qx qy := by
            split
            · rw [hfl, decide_eq_false (by tauto)]; simp
            · rfl
          rw [e]
          by_cases hr : qy = py ∧ px + 1 ≤ qx ∧ qx < px + 1 + left ∧ qx < 64
          · rw [decide_eq_true hr, decide_eq_true (by omega), show left + 1 - 1 - (qx - px) = left - 1 - (qx - (px + 1)) by omega]
          · rw [decide_eq_false hr, decide_eq_false (by omega)]; simp
      · rw [i2]
        constructor
        · rintro (h | ⟨qx, h1, h2, h3, h4, h5⟩)
          · by_cases hs : sprite.getLsbD left = true
            · rw [if_pos hs, hhit] at h
              rcases h with h | h
              · exact Or.inl h
              · exact Or.inr ⟨px, le_refl _, by omega, by omega, by rw [show left + 1 - 1 - (px - px) = left by omega]; exact hs, h⟩
            · rw [if_neg hs] at h; exact Or.inl h
          · refine Or.inr ⟨qx, by omega, by omega, h3, by rw [show left + 1 - 1 - (qx - px) = left - 1 - (qx - (px + 1)) by omega]; exact h4, ?_⟩
            split at h5
            · rw [hfl, decide_eq_false (by omega)] at h5; simpa using h5
            · exact h5
        · rintro (h | ⟨qx, h1, h2, h3, h4, h5⟩)
          · left; split
            · exact hhit.2 (Or.inl h)
            · exact h
          · by_cases hq : qx = px
            · subst hq
              rw [show left + 1 - 1 - (qx - qx) = left by omega] at h4
              left; rw [if_pos h4]; exact hhit.2 (Or.inr h5)
            · right
              refine ⟨qx, by omega, by omega, h3, by rw [show left - 1 - (qx - (px + 1)) = left + 1 - 1 - (qx - px) by omega]; exact h4, ?_⟩
              split
              · rw [hfl, decide_eq_false (by omega)]; simpa using h5
              · exact h5

/-- The picture of sprite rows drawn at `(sx, py)`, clipped (43_display.md R161 to R164). -/
def spritePicture (sx py : Nat) (rows : List Byte) (qx qy : Nat) : Bool :=
  decide (sx ≤ qx ∧ qx < sx + 8 ∧ qx < 64 ∧ py ≤ qy ∧ qy < py + rows.length ∧ qy < 32) &&
    (rows.getD (qy - py) 0).getLsbD (7 - (qx - sx))

/-- A whole sprite: the display is XORed with the picture, and the hit flag tells whether it met a set pixel. -/
theorem blitRows_spec (sx : Nat) (rows : List Byte) (py : Nat) (b : Blit) :
    (∀ qx qy, (blitRows sx py rows b).display.pixel qx qy = (b.display.pixel qx qy ^^ spritePicture sx py rows qx qy)) ∧
    ((blitRows sx py rows b).hit = true ↔ b.hit = true ∨ ∃ qx qy, b.display.pixel qx qy = true ∧ spritePicture sx py rows qx qy = true) := by
  induction rows generalizing py b with
  | nil =>
    have : ∀ qx qy, spritePicture sx py [] qx qy = false := by
      intro qx qy; unfold spritePicture; rw [decide_eq_false (by simp only [List.length_nil]; omega)]; simp
    simp [blitRows, this]
  | cons r rest ih =>
    by_cases hy : 32 ≤ py
    · have : ∀ qx qy, spritePicture sx py (r :: rest) qx qy = false := by
        intro qx qy; unfold spritePicture; rw [decide_eq_false (by omega)]; simp
      simp [blitRows, this, hy]
    · simp only [blitRows, if_neg hy]
      obtain ⟨i1, i2⟩ := ih (py+1) (blitColumns r py sx 8 b)
      obtain ⟨c1, c2⟩ := blitColumns_spec r py (by omega) 8 sx b
      have split1 : ∀ qx qy, spritePicture sx py (r :: rest) qx qy =
         ((decide (qy = py ∧ sx ≤ qx ∧ qx < sx + 8 ∧ qx < 64) && r.getLsbD (8 - 1 - (qx - sx))) ^^ spritePicture sx (py+1) rest qx qy) := by
        intro qx qy
        unfold spritePicture
        by_cases h : qy = py
        · subst h
          rw [decide_eq_false (p := sx ≤ qx ∧ qx < sx + 8 ∧ qx < 64 ∧ qy + 1 ≤ qy ∧ _) (by omega)]
          by_cases hh : sx ≤ qx ∧ qx < sx + 8 ∧ qx < 64
          · rw [decide_eq_true (by simp only [List.length_cons]; omega), decide_eq_true (by tauto)]; simp
          · rw [decide_eq_false (by tauto), decide_eq_false (by tauto)]; simp
        · rw [decide_eq_false (p := qy = py ∧ _) (by tauto)]
          simp only [Bool.false_and, Bool.false_xor]
          by_cases hh : sx ≤ qx ∧ qx < sx + 8 ∧ qx < 64 ∧ py + 1 ≤ qy ∧ qy < py + 1 + rest.length ∧ qy < 32
          · rw [decide_eq_true hh, decide_eq_true (by simp only [List.length_cons]; omega), show qy - py = (qy - (py+1)) + 1 by omega]
            simp
          · rw [decide_eq_false hh, decide_eq_false (by simp only [List.length_cons]; omega)]
            simp
      refine ⟨fun qx qy => ?_, ?_⟩
      · rw [i1, c1, split1, Bool.xor_assoc]
      · rw [i2, c2]
        have rest_ne : ∀ qx qy, spritePicture sx (py+1) rest qx qy = true → qy ≠ py := by
          intro qx qy h e; subst e
          unfold spritePicture at h; rw [decide_eq_false (by omega)] at h; simp at h
        constructor
        · rintro ((h | ⟨qx, h1, h2, h3, h4, h5⟩) | ⟨qx, qy, h1, h2⟩)
          · exact Or.inl h
          · refine Or.inr ⟨qx, py, h5, ?_⟩
            rw [split1, decide_eq_true ⟨rfl, h1, h2, h3⟩, h4]
            have : spritePicture sx (py+1) rest qx py = false := by
              cases h : spritePicture sx (py+1) rest qx py
              · rfl
              · exact absurd rfl (rest_ne _ _ h)
            rw [this]; rfl
          · refine Or.inr ⟨qx, qy, ?_, ?_⟩
            · rw [c1, decide_eq_false (by have := rest_ne _ _ h2; tauto)] at h1; simpa using h1
            · rw [split1, h2, decide_eq_false (by have := rest_ne _ _ h2; tauto)]; rfl
        · rintro (h | ⟨qx, qy, h1, h2⟩)
          · exact Or.inl (Or.inl h)
          · rw [split1] at h2
            by_cases hh : qy = py ∧ sx ≤ qx ∧ qx < sx + 8 ∧ qx < 64
            · have hq := hh.1
              subst hq
              have : spritePicture sx (qy+1) rest qx qy = false := by
                cases h : spritePicture sx (qy+1) rest qx qy
                · rfl
                · exact absurd rfl (rest_ne _ _ h)
              rw [this, decide_eq_true hh] at h2
              left; right
              exact ⟨qx, hh.2.1, hh.2.2.1, hh.2.2.2, by simpa using h2, h1⟩
            · rw [decide_eq_false hh] at h2
              right
              refine ⟨qx, qy, ?_, by simpa using h2⟩
              rw [c1, decide_eq_false hh]; simpa using h1

end Sys2Proof.Machine
end

