-- ==== Sys2Proof/Machine/Assembly.lean ====
section
/-! DEFINITION. The assembler form of each instruction (30_encoding.md R79): a mnemonic in capitals, one space, operands
separated by commas. Notation only; no step reads it. -/

namespace Sys2Proof

/-- One hexadecimal digit. -/
def hexDigit (k : Fin 16) : String :=
  #v["0", "1", "2", "3", "4", "5", "6", "7", "8", "9", "A", "B", "C", "D", "E", "F"][k]

/-- `V0` to `VF`. -/
def regText (r : RegNum) : String := "V" ++ hexDigit r

/-- An 8-bit number with `0x`. -/
def immText (nn : Byte) : String := "0x" ++ hexDigit (nn.extractLsb' 4 4).toFin ++ hexDigit (nn.extractLsb' 0 4).toFin

/-- A 12-bit number with `0x`. -/
def addrText (nnn : Addr12) : String :=
  "0x" ++ hexDigit (nnn.extractLsb' 8 4).toFin ++ hexDigit (nnn.extractLsb' 4 4).toFin ++
    hexDigit (nnn.extractLsb' 0 4).toFin

/-- The form `OP Vx,nn`. -/
def textXI (op : String) (x : RegNum) (nn : Byte) : String := op ++ " " ++ regText x ++ "," ++ immText nn

/-- The form `OP Vx,Vy`. -/
def textXY (op : String) (x y : RegNum) : String := op ++ " " ++ regText x ++ "," ++ regText y

/-- The assembler form (R75, R79). -/
def Instr.text : Instr → String
  | .cls => "CLS"
  | .ret => "RET"
  | .jp nnn => "JP " ++ addrText nnn
  | .call nnn => "CALL " ++ addrText nnn
  | .seImm x nn => textXI "SE" x nn
  | .sneImm x nn => textXI "SNE" x nn
  | .seReg x y => textXY "SE" x y
  | .ldImm x nn => textXI "LD" x nn
  | .addImm x nn => textXI "ADD" x nn
  | .ldReg x y => textXY "LD" x y
  | .orReg x y => textXY "OR" x y
  | .andReg x y => textXY "AND" x y
  | .xorReg x y => textXY "XOR" x y
  | .addReg x y => textXY "ADD" x y
  | .subReg x y => textXY "SUB" x y
  | .shr x y => textXY "SHR" x y
  | .subn x y => textXY "SUBN" x y
  | .shl x y => textXY "SHL" x y
  | .sneReg x y => textXY "SNE" x y
  | .ldI nnn => "LD I," ++ addrText nnn
  | .jpV0 nnn => "JP V0," ++ addrText nnn
  | .rnd x nn => textXI "RND" x nn
  | .drw x y n => textXY "DRW" x y ++ ",0x" ++ hexDigit n
  | .skp x => "SKP " ++ regText x
  | .sknp x => "SKNP " ++ regText x
  | .ldVxDt x => "LD " ++ regText x ++ ",DT"
  | .ldVxK x => "LD " ++ regText x ++ ",K"
  | .ldDtVx x => "LD DT," ++ regText x
  | .ldStVx x => "LD ST," ++ regText x
  | .addI x => "ADD I," ++ regText x
  | .ldF x => "LD F," ++ regText x
  | .ldB x => "LD B," ++ regText x
  | .storeRegs x => "LD [I]," ++ regText x
  | .loadRegs x => "LD " ++ regText x ++ ",[I]"

end Sys2Proof
end

