-- ==== Sys2Proof/Tests/Slice0.lean ====
section
/-! SUPPORT. Own tests: the operand check, decoding of words written from the formats of 30_encoding.md R72 and R75, one
or two single steps per instruction with the results of 95_test_vectors.md (its ids in the docstrings), and a witness
for the hypotheses of every statement that has some. -/

namespace Sys2Proof.Tests

open Sys2Proof Sys2Proof.Machine

/-! ### Operand check -/

theorem test_wellFormed_refuses_register_16 : operandsFit [⟨.reg, 16⟩, ⟨.imm, 0⟩] = false := by decide
theorem test_wellFormed_refuses_rows_16 : operandsFit [⟨.reg, 0⟩, ⟨.reg, 0⟩, ⟨.rows, 16⟩] = false := by decide
theorem test_wellFormed_refuses_immediate_256 : operandsFit [⟨.reg, 15⟩, ⟨.imm, 256⟩] = false := by decide
theorem test_wellFormed_refuses_address_4096 : operandsFit [⟨.addr, 4096⟩] = false := by decide
theorem test_wellFormed_accepts_bounds :
    operandsFit [⟨.reg, 15⟩, ⟨.rows, 15⟩, ⟨.imm, 255⟩, ⟨.addr, 4095⟩] = true := by decide

/-! ### Decoding: every row of R75, the word spelt nibble by nibble from its format -/

theorem test_decode_display :
    decodeWord 0b0000000011100000 = .ok .cls ∧ decodeWord 0b1101001110100101 = .ok (.drw 3 0xA 5) := by decide

theorem test_decode_control :
    decodeWord 0b0000000011101110 = .ok .ret ∧ decodeWord 0b0001001000110100 = .ok (.jp 0x234) ∧
    decodeWord 0b0010101111001101 = .ok (.call 0xBCD) ∧ decodeWord 0b0011101000000101 = .ok (.seImm 0xA 0x05) ∧
    decodeWord 0b0100101000000101 = .ok (.sneImm 0xA 0x05) ∧ decodeWord 0b0101000100100000 = .ok (.seReg 1 2) ∧
    decodeWord 0b1001000100100000 = .ok (.sneReg 1 2) ∧ decodeWord 0b1011001100000001 = .ok (.jpV0 0x301) := by decide

theorem test_decode_alu :
    decodeWord 0b0110101000101100 = .ok (.ldImm 0xA 0x2C) ∧ decodeWord 0b0111001100000010 = .ok (.addImm 3 0x02) ∧
    decodeWord 0b1000000100100000 = .ok (.ldReg 1 2) ∧ decodeWord 0b1000000100100001 = .ok (.orReg 1 2) ∧
    decodeWord 0b1000000100100010 = .ok (.andReg 1 2) ∧ decodeWord 0b1000000100100011 = .ok (.xorReg 1 2) ∧
    decodeWord 0b1000000100100100 = .ok (.addReg 1 2) ∧ decodeWord 0b1000000100100101 = .ok (.subReg 1 2) ∧
    decodeWord 0b1000000100100110 = .ok (.shr 1 2) ∧ decodeWord 0b1000000100100111 = .ok (.subn 1 2) ∧
    decodeWord 0b1000000100101110 = .ok (.shl 1 2) ∧ decodeWord 0b1100000100001111 = .ok (.rnd 1 0x0F) := by decide

theorem test_decode_index :
    decodeWord 0b1010000001010000 = .ok (.ldI 0x050) ∧ decodeWord 0b1111001100011110 = .ok (.addI 3) ∧
    decodeWord 0b1111001000101001 = .ok (.ldF 2) ∧ decodeWord 0b1111010100110011 = .ok (.ldB 5) ∧
    decodeWord 0b1111001001010101 = .ok (.storeRegs 2) ∧ decodeWord 0b1111111101100101 = .ok (.loadRegs 0xF) := by
  decide

theorem test_decode_keypad_and_timers :
    decodeWord 0b1110001010011110 = .ok (.skp 2) ∧ decodeWord 0b1110001010100001 = .ok (.sknp 2) ∧
    decodeWord 0b1111001100000111 = .ok (.ldVxDt 3) ∧ decodeWord 0b1111010000001010 = .ok (.ldVxK 4) ∧
    decodeWord 0b1111001100010101 = .ok (.ldDtVx 3) ∧ decodeWord 0b1111001100011000 = .ok (.ldStVx 3) := by decide

/-- T-UNREC-1, 3, 4, 6, 7, 8, 12, 15. -/
theorem test_decode_rejects :
    decodeWord 0x0000 = .error .unrecognised0 ∧ decodeWord 0x01E0 = .error .unrecognised0 ∧
    decodeWord 0x0FEE = .error .unrecognised0 ∧ decodeWord 0x5121 = .error .unrecognised5 ∧
    decodeWord 0x912F = .error .unrecognised9 ∧ decodeWord 0x8128 = .error .unrecognised8 ∧
    decodeWord 0xE1A0 = .error .unrecognisedE ∧ decodeWord 0xF175 = .error .unrecognisedF := by decide

/-- The first byte in memory is the high one (T-FETCH-5, T-FETCH-7); a single byte is no word. -/
theorem test_decode_bytes :
    decodeBytes [0x12, 0x34] = .ok (.jp 0x234, []) ∧ decodeBytes [0x34, 0x12] = .ok (.seImm 4 0x12, []) ∧
    decodeBytes [0x12] = .error .truncated := by decide

/-- R79, the forms of example S5 (numbers may be written in hexadecimal). -/
theorem test_text :
    (Instr.ldI 0x050).text = "LD I,0x050" ∧ (Instr.drw 0 1 5).text = "DRW V0,V1,0x5" ∧
    (Instr.storeRegs 0xA).text = "LD [I],VA" ∧ (Instr.addImm 0xF 0x2C).text = "ADD VF,0x2C" := by decide +kernel

/-! ### Single steps -/

/-- The reset state with some registers set. -/
def withRegs (l : List (RegNum × Byte)) : State := l.foldl (fun s p => s.setReg p.1 p.2) State.reset

/-- A state with bytes stored from an address on. -/
def withBytes (s : State) (a : Nat) (bs : List Byte) : State := { s with memory := writeFont s.memory a bs }

/-- The state a result holds. -/
def after (s : State) : Result → State
  | .next t => t
  | .fault _ => s
  | .refused _ => s

/-- One `Step` of the spec with a word placed at `pc`. -/
def slot (s : State) (w : Nat) : State := after s (slotStep (s.withFetchWord 16 w))

/-- T-DISP-1 (one pixel): cleared, `VF` kept. -/
theorem test_cls :
    (slot { (withRegs [(15, 1)]) with display := blankDisplay.setPixel 63 31 true } 0x00E0).display.pixel 63 31 = false
      ∧ (slot (withRegs [(15, 1)]) 0x00E0).reg 15 = 1 := by decide +kernel

/-- T-CTL-1, T-CTL-2. -/
theorem test_ret :
    (slot { State.reset with sp := 1, stack := State.reset.stack.set 0 0x0202, pc := 0x0300 } 0x00EE).pc = 0x0202 ∧
    (slot State.reset 0x00EE).faultCause = .stackUnderflow := by decide

/-- T-FETCH-5. -/
theorem test_jp : (slot State.reset 0x1234).pc = 0x0234 := by decide

/-- T-CTL-6: the sixteenth nested call. -/
theorem test_call :
    (slot { State.reset with sp := 15 } 0x2300).sp = 16 ∧ (slot { State.reset with sp := 15 } 0x2300).pc = 0x0300 ∧
    (slot { State.reset with sp := 15 } 0x2300).stack[15] = 0x0202 := by decide

/-- T-CTL-7: the seventeenth. -/
theorem test_call_overflow :
    (slot { State.reset with sp := 16 } 0x2300).status = .halted ∧ (slot { State.reset with sp := 16 } 0x2300).sp = 16 ∧
    (slot { State.reset with sp := 16 } 0x2300).pc = 0x0200 := by decide

/-- T-CTL-8, T-CTL-9. -/
theorem test_seImm :
    (slot (withRegs [(10, 5)]) 0x3A05).pc = 0x0204 ∧ (slot (withRegs [(10, 6)]) 0x3A05).pc = 0x0202 := by decide

/-- T-CTL-10, T-CTL-11. -/
theorem test_sneImm :
    (slot (withRegs [(10, 5)]) 0x4A05).pc = 0x0202 ∧ (slot (withRegs [(10, 6)]) 0x4A05).pc = 0x0204 := by decide

/-- T-CTL-12. -/
theorem test_seReg : (slot (withRegs [(1, 7), (2, 7)]) 0x5120).pc = 0x0204 := by decide

/-- T-CTL-14, T-CTL-15. -/
theorem test_sneReg :
    (slot (withRegs [(1, 7), (2, 8)]) 0x9120).pc = 0x0204 ∧ (slot (withRegs [(1, 7), (2, 7)]) 0x9120).pc = 0x0202 := by
  decide

/-- T-CTL-16 and the target of T-FETCH-4. -/
theorem test_jpV0 :
    (slot (withRegs [(0, 4), (3, 0x55)]) 0xB300).pc = 0x0304 ∧ (slot (withRegs [(0, 0xFF)]) 0xBFFF).pc = 0x10FE := by
  decide

/-- T-ALU-2. -/
theorem test_ldImm : (slot State.reset 0x6FAB).reg 15 = 0xAB := by decide

/-- T-ALU-4: wraps, `VF` kept. -/
theorem test_addImm :
    (slot (withRegs [(3, 0xFF), (15, 0x5A)]) 0x7302).reg 3 = 1 ∧
    (slot (withRegs [(3, 0xFF), (15, 0x5A)]) 0x7302).reg 15 = 0x5A := by decide

/-- T-ALU-6. -/
theorem test_ldReg : (slot (withRegs [(2, 0x7F)]) 0x8120).reg 1 = 0x7F := by decide

/-- T-ALU-7. -/
theorem test_orReg :
    (slot (withRegs [(1, 0x0F), (2, 0xF0), (15, 1)]) 0x8121).reg 1 = 0xFF ∧
    (slot (withRegs [(1, 0x0F), (2, 0xF0), (15, 1)]) 0x8121).reg 15 = 1 := by decide

/-- T-ALU-8. -/
theorem test_andReg : (slot (withRegs [(1, 0x3C), (2, 0x0F)]) 0x8122).reg 1 = 0x0C := by decide

/-- T-ALU-9. -/
theorem test_xorReg : (slot (withRegs [(1, 0xFF), (2, 0x0F)]) 0x8123).reg 1 = 0xF0 := by decide

/-- T-ALU-13, T-ALU-14: sums 256 and 255. -/
theorem test_addReg :
    (slot (withRegs [(1, 0xFF), (2, 1)]) 0x8124).reg 15 = 1 ∧ (slot (withRegs [(1, 0xFF), (2, 1)]) 0x8124).reg 1 = 0 ∧
    (slot (withRegs [(1, 0x80), (2, 0x7F), (15, 1)]) 0x8124).reg 15 = 0 := by decide

/-- T-ALU-16, T-ALU-17: `VF` as destination and as operand. -/
theorem test_addReg_flag_register :
    (slot (withRegs [(15, 0x10), (1, 0x20)]) 0x8F14).reg 15 = 0 ∧
    (slot (withRegs [(1, 5), (15, 3)]) 0x81F4).reg 1 = 8 := by decide

/-- T-ALU-19, T-ALU-21. -/
theorem test_subReg :
    (slot (withRegs [(1, 0x10), (2, 0x20), (15, 1)]) 0x8125).reg 1 = 0xF0 ∧
    (slot (withRegs [(1, 0x10), (2, 0x20), (15, 1)]) 0x8125).reg 15 = 0 ∧
    (slot (withRegs [(1, 0x33), (2, 0x33)]) 0x8125).reg 15 = 1 := by decide

/-- T-ALU-25, and T-ALU-26 with `SHIFT_SRC = Y`. -/
theorem test_shr :
    (slot (withRegs [(1, 5), (2, 8)]) 0x8126).reg 1 = 2 ∧ (slot (withRegs [(1, 5), (2, 8)]) 0x8126).reg 15 = 1 ∧
    (slot { (withRegs [(1, 5), (2, 8)]) with params := { Config.default with shiftSrc := .y } } 0x8126).reg 1 = 4 := by
  decide

/-- T-ALU-32. -/
theorem test_subn :
    (slot (withRegs [(1, 0x20), (2, 0x10), (15, 1)]) 0x8127).reg 1 = 0xF0 ∧
    (slot (withRegs [(1, 0x20), (2, 0x10), (15, 1)]) 0x8127).reg 15 = 0 := by decide

/-- T-ALU-35, and T-ALU-38: the result is lost in `VF`. -/
theorem test_shl :
    (slot (withRegs [(1, 0x81), (2, 0x40)]) 0x812E).reg 1 = 2 ∧
    (slot (withRegs [(1, 0x81), (2, 0x40)]) 0x812E).reg 15 = 1 ∧
    (slot (withRegs [(15, 0x80)]) 0x8F1E).reg 15 = 1 := by decide

/-- T-ALU-40. -/
theorem test_rnd :
    (slot { State.reset with rndIn := ⟨[0xA7], 0⟩ } 0xC10F).reg 1 = 7 ∧
    (slot { State.reset with rndIn := ⟨[0xA7], 0⟩ } 0xC10F).rndIn = ⟨[], 1⟩ := by decide

/-- T-MEM-1. -/
theorem test_ldI : (slot State.reset 0xA050).i = 0x0050 := by decide

/-- T-MEM-3, T-MEM-3b. -/
theorem test_addI :
    (slot { (withRegs [(3, 1)]) with i := 0x0FFF } 0xF31E).i = 0x1000 ∧
    (slot { (withRegs [(3, 2)]) with i := 0xFFFF } 0xF31E).i = 0x0001 := by decide

/-- T-MEM-4, T-MEM-7. -/
theorem test_ldF :
    (slot (withRegs [(2, 5)]) 0xF229).i = 0x0069 ∧ (slot (withRegs [(2, 0xFF)]) 0xF229).i = 0x054B := by decide

/-- T-MEM-10: 123 at the last legal base. -/
theorem test_ldB :
    (slot { (withRegs [(5, 0x7B)]) with i := 0x0FFD } 0xF533).memory.read 0xFFD = 1 ∧
    (slot { (withRegs [(5, 0x7B)]) with i := 0x0FFD } 0xF533).memory.read 0xFFF = 3 := by decide

/-- T-MEM-11: nothing written. -/
theorem test_ldB_out_of_range :
    (slot { (withRegs [(5, 0x7B)]) with i := 0x0FFE } 0xF533).faultCause = .dataAccessOutOfBounds ∧
    (slot { (withRegs [(5, 0x7B)]) with i := 0x0FFE } 0xF533).memory.read 0xFFE = 0 := by decide

/-- T-MEM-12. -/
theorem test_storeRegs :
    (slot { (withRegs [(0, 0x11), (2, 0x33), (3, 0x44)]) with i := 0x0400 } 0xF255).memory.read 0x402 = 0x33 ∧
    (slot { (withRegs [(0, 0x11), (2, 0x33), (3, 0x44)]) with i := 0x0400 } 0xF255).memory.read 0x403 = 0 ∧
    (slot { (withRegs [(0, 0x11), (2, 0x33), (3, 0x44)]) with i := 0x0400 } 0xF255).i = 0x0400 := by decide

/-- T-MEM-16. -/
theorem test_loadRegs :
    (slot { (withBytes (withRegs [(3, 0x99)]) 0x400 [0x11, 0x22, 0x33, 0x44]) with i := 0x0400 } 0xF265).reg 2 = 0x33 ∧
    (slot { (withBytes (withRegs [(3, 0x99)]) 0x400 [0x11, 0x22, 0x33, 0x44]) with i := 0x0400 } 0xF265).reg 3 = 0x99 := by
  decide

/-- T-DISP-8: clipped on the right, no wrap to column 0. -/
theorem test_drw_clips :
    (slot { (withBytes (withRegs [(0, 0x3C)]) 0x300 [0xFF]) with i := 0x0300 } 0xD011).display.pixel 63 0 = true ∧
    (slot { (withBytes (withRegs [(0, 0x3C)]) 0x300 [0xFF]) with i := 0x0300 } 0xD011).display.pixel 0 0 = false := by
  decide +kernel

/-- T-DISP-5: collision. -/
theorem test_drw_collides :
    (slot { (withBytes State.reset 0x300 [0xC0]) with
      i := 0x0300, display := blankDisplay.setPixel 0 0 true } 0xD011).reg 15 = 1 ∧
    (slot { (withBytes State.reset 0x300 [0xC0]) with
      i := 0x0300, display := blankDisplay.setPixel 0 0 true } 0xD011).display.pixel 1 0 = true := by decide +kernel

/-- T-KEY-2, T-KEY-3. -/
theorem test_skp :
    (slot { (withRegs [(2, 7)]) with keys := 0xFF7F } 0xE29E).pc = 0x0202 ∧
    (slot { (withRegs [(2, 0x1A)]) with keys := 0x0400 } 0xE29E).pc = 0x0204 := by decide

/-- T-KEY-5, T-KEY-6. -/
theorem test_sknp :
    (slot (withRegs [(2, 7)]) 0xE2A1).pc = 0x0204 ∧
    (slot { (withRegs [(2, 0xF0)]) with keys := 1 } 0xE2A1).pc = 0x0202 := by decide

/-- T-KEY-12. -/
theorem test_ldVxDt : (slot { State.reset with dt := 0x2A } 0xF307).reg 3 = 0x2A := by decide

/-- T-KEY-8: the lowest of keys 3 and 5. -/
theorem test_ldVxK :
    (slot { (withRegs [(4, 0x99)]) with keys := 0x0028, status := .awaitingKey } 0xF40A).reg 4 = 3 ∧
    (slot { (withRegs [(4, 0x99)]) with keys := 0x0028, status := .awaitingKey } 0xF40A).status = .running := by decide

/-- T-KEY-7. -/
theorem test_ldVxK_waits :
    (slot State.reset 0xF40A).status = .awaitingKey ∧ (slot State.reset 0xF40A).pc = 0x0200 := by decide

/-- T-KEY-13. -/
theorem test_ldDtVx : (slot (withRegs [(3, 0x3C)]) 0xF315).dt = 0x3C := by decide

/-- T-KEY-14. -/
theorem test_ldStVx : (slot (withRegs [(3, 2)]) 0xF318).st = 2 ∧ (slot (withRegs [(3, 2)]) 0xF318).tone = false := by
  decide

/-- T-FETCH-1, T-FETCH-2. -/
theorem test_fetch_bound :
    (slot { State.reset with pc := 0x0FFE } 0x602A).reg 0 = 0x2A ∧
    (after State.reset (slotStep { State.reset with pc := 0x0FFF })).faultAddr = 0x0FFF := by decide

/-- T-LOAD-3: one byte at 0xFFF fits, two do not. -/
theorem test_load :
    (match State.reset.load [0xCD] 0xFFF with | .next l => (l.error, l.state.memory) | _ => (.none, []))
      = (.none, [(0xFFF, 0xCD)]) ∧
    (match State.reset.load [0xCD, 0xCD] 0xFFF with | .next l => (l.error, l.state.memory) | _ => (.none, []))
      = (.programTooLarge, []) := by decide +kernel

/-- R36, R52: glyph 5 of the font is in place after reset. -/
theorem test_reset_font : State.reset.memory.read 0x069 = 0xF0 ∧ State.reset.memory.read 0x06A = 0x80 := by decide

/-! ### Witnesses: states and operands that meet the hypotheses of the statements, at the ends of their ranges -/

/-- A state whose next step runs a word, as the first slot of a tick. -/
abbrev ready (w : Nat) : State := State.reset.withFetchWord 16 w

/-- EncodeOfDecode, DecodeByOpcodeRows. -/
theorem witness_decode :
    decodeWord 0xD015 = .ok (.drw 0 1 5) ∧ (Instr.drw 0 0 0).row.selects 0xD015 = true ∧
    (Instr.drw 3 3 3).row.selects 0xD015 = true := by decide

/-- FetchIsBigEndian at its last address, FetchBound on both sides. -/
theorem witness_fetch :
    (0x0FFE : Word).toNat ≤ 0xFFE ∧ State.reset.status ≠ .halted ∧ 0xFFE < (0x0FFF : Word).toNat := by decide

/-- StepRunsDecodedInstruction: first slot and last slot of a tick. -/
theorem witness_step :
    (ready 0x6A2C).status ≠ .halted ∧ (ready 0x6A2C).params.ipt ≠ 0 ∧ (ready 0x6A2C).pc.toNat ≤ 0xFFE ∧
    decodeBytes [(ready 0x6A2C).memory.read (ready 0x6A2C).pc.toNat,
      (ready 0x6A2C).memory.read ((ready 0x6A2C).pc.toNat + 1)] = .ok (.ldImm 0xA 0x2C, []) ∧
    ({ (ready 0x6A2C) with slot := 9, phase := .ticking } : State).status ≠ .halted := by decide

/-- UnrecognisedWordAdvances. -/
theorem witness_unrecognised :
    State.reset.status ≠ .halted ∧ State.reset.memory.fetch State.reset.pc = some 0 ∧
    decodeWord 0 = .error .unrecognised0 := by decide

/-- HaltedIsAbsorbing. -/
theorem witness_halted : (State.reset.raise .stackOverflow).status = .halted := by decide

/-- SlotsMakeFrameTick. -/
theorem witness_tick : State.reset.status ≠ .halted ∧ State.reset.slot = 0 ∧ 0 < State.reset.params.ipt := by decide

/-- NoSlotsStillTicks. -/
theorem witness_no_slots :
    ({ State.reset with params := { Config.default with ipt := 0 } } : State).status ≠ .halted ∧
    ({ State.reset with params := { Config.default with ipt := 0 } } : State).params.ipt = 0 := by decide

/-- The invariant of a state that starts a tick with the reset stack, status and cause. -/
theorem inv_of_reset_like {s : State} (hm : s.memory.wf = true) (hp : s.pc.toNat ≤ 0x10FE)
    (hst : s.stack = State.reset.stack) (hs : s.status = .running) (hc : s.faultCause = .none) (hsl : s.slot = 0) :
    s.Inv where
  memoryWf := hm
  pcBound := hp
  stackBound := fun k => by simp [hst, State.reset]
  haltedIffCause := by rw [hs, hc]; decide
  waitingAtKeyWait := fun h => by rw [hs] at h; cases h
  slotBound := .inl hsl
  slotTicking := fun h => absurd hsl h

/-- StepKeepsInvariant, InstructionFrame, PresentedOncePerTick, KeysLatchedOncePerTick (first slot),
LoadOnlyBeforeTheFirstTick: a running state of the invariant and its step. -/
theorem witness_inv_step :
    (ready 0x6A2C).Inv ∧ (ready 0x6A2C).status ≠ .halted ∧
    ∃ t, step (ready 0x6A2C) = .next t ∧ t.status ≠ .halted ∧ t.slot = 1 :=
  ⟨inv_of_reset_like (by decide) (by decide) rfl rfl rfl rfl, by decide, _, rfl, by decide, rfl⟩

/-- PresentedOncePerTick, KeysLatchedOncePerTick, ToneIsLatchedAtStepD, TimersCountOncePerTick: the last slot of a
tick, with a supplied keypad value left for the next one. -/
theorem witness_last_slot :
    ({ (ready 0x6A2C) with slot := 9, phase := .ticking, keysIn := ⟨[0x0080], 0⟩ } : State).Inv ∧
    ({ (ready 0x6A2C) with slot := 9, phase := .ticking, keysIn := ⟨[0x0080], 0⟩ } : State).status ≠ .halted ∧
    ∃ t, step { (ready 0x6A2C) with slot := 9, phase := .ticking, keysIn := ⟨[0x0080], 0⟩ } = .next t ∧
      t.status ≠ .halted ∧ t.slot = 0 :=
  ⟨{ memoryWf := by decide, pcBound := by decide, stackBound := by decide, haltedIffCause := by decide,
     waitingAtKeyWait := by decide, slotBound := .inr (by decide), slotTicking := fun _ => rfl },
   by decide, _, rfl, by decide, rfl⟩

/-- InstructionFrame, FaultsAreExactAndPrecise: an instruction that raises and one that does not. -/
theorem witness_raises :
    Instr.ret.raises State.reset = some .stackUnderflow ∧ (Instr.call 0x300).raises State.reset = none ∧
    exec .ret State.reset = .next (State.reset.raise .stackUnderflow) := ⟨by decide, by decide, rfl⟩

/-- DataBoundFault: the first bases out of range, clause by clause. -/
theorem witness_data_bound :
    (0 < (1 : Fin 16).val ∧ 0xFFF < (0x1000 : Word).toNat + (1 : Fin 16).val - 1) ∧
    0xFFF < (0x0FF2 : Word).toNat + (15 : Fin 16).val - 1 ∧
    0xFFD < (0x0FFE : Word).toNat ∧ 0xFFF < (0x1000 : Word).toNat + (0 : RegNum).val ∧
    0xFFF < (0x0FF1 : Word).toNat + (15 : RegNum).val := by decide

/-- HaltSkipsTheRestOfTheTick, and the halting clauses of TimersCountOncePerTick and ToneIsLatchedAtStepD. -/
theorem witness_halting_step :
    (ready 0x00EE).status ≠ .halted ∧ ∃ t, step (ready 0x00EE) = .next t ∧ t.status = .halted :=
  ⟨by decide, _, rfl, rfl⟩

/-- MemoryChangesOnlyByStores, both clauses, at the last byte stored. -/
theorem witness_memory_changes :
    (∃ t, step ({ (withRegs [(5, 0x7B)]) with i := 0x0FFD }.withFetchWord 16 0xF533) = .next t ∧
      t.memory.read 0xFFF ≠ ({ (withRegs [(5, 0x7B)]) with i := 0x0FFD }.withFetchWord 16 0xF533).memory.read 0xFFF) ∧
    (∃ t, step ({ (withRegs [(1, 0x22)]) with i := 0x0FFE }.withFetchWord 16 0xF155) = .next t ∧
      t.memory.read 0xFFF ≠ ({ (withRegs [(1, 0x22)]) with i := 0x0FFE }.withFetchWord 16 0xF155).memory.read 0xFFF) :=
  ⟨⟨_, rfl, by decide⟩, ⟨_, rfl, by decide⟩⟩

/-- DisplayChangesOnlyByClsAndDraw, both instructions. -/
theorem witness_display_changes :
    (∃ t, step { (ready 0x00E0) with display := blankDisplay.setPixel 0 0 true } = .next t ∧
      t.display.pixel 0 0 ≠ (blankDisplay.setPixel 0 0 true).pixel 0 0) ∧
    (∃ t, step ({ State.reset with i := 0x0069 }.withFetchWord 16 0xD011) = .next t ∧
      t.display.pixel 0 0 ≠ State.reset.display.pixel 0 0) :=
  ⟨⟨_, rfl, by decide +kernel⟩, ⟨_, rfl, by decide +kernel⟩⟩

/-- CallPushesReturnAddress and ReturnPopsReturnAddress at both ends of the stack. -/
theorem witness_stack :
    (0 : Fin 17) = (0 : Fin 16).castSucc ∧ (15 : Fin 17) = (15 : Fin 16).castSucc ∧ (1 : Fin 17) = (0 : Fin 16).succ ∧
    (16 : Fin 17) = (15 : Fin 16).succ ∧ ({ State.reset with sp := 16 } : State).sp = 16 ∧ State.reset.sp = 0 := by
  decide

/-- ReturnUndoesCall on the last free slot. -/
theorem witness_call_then_ret :
    ({ State.reset with sp := 15 } : State).sp ≠ 16 ∧ ∃ t, exec (.call 0x300) { State.reset with sp := 15 } = .next t :=
  ⟨by decide, _, rfl⟩

/-- SelfJumpStays. -/
theorem witness_self_jump :
    (ready 0x1200).status = .running ∧ (ready 0x1200).current = some (.jp 0x200) ∧
    (0x200 : Addr12).toNat = (ready 0x1200).pc.toNat := by decide

/-- ShiftsSetBitOut for both values of SHIFT_SRC. -/
theorem witness_shift_source :
    (State.reset.params.shiftSrc = .x ∧ 0 = (State.reset.reg 1).toNat) ∧
    ({ (withRegs [(2, 8)]) with params := { Config.default with shiftSrc := .y } } : State).params.shiftSrc = .y ∧
    8 = ((withRegs [(2, 8)]).reg 2).toNat := by decide

/-- FlagIsWrittenLast: every clause has a next state, with `VF` and with another register as destination. -/
theorem witness_flag_written_last :
    (∃ t, exec (.addReg 15 1) State.reset = .next t) ∧ (∃ t, exec (.subReg 1 15) State.reset = .next t) ∧
    (∃ t, exec (.subn 1 2) State.reset = .next t) ∧ (∃ t, exec (.shr 15 1) State.reset = .next t) ∧
    (∃ t, exec (.shl 1 2) State.reset = .next t) ∧ (1 : RegNum) ≠ flagReg :=
  ⟨⟨_, rfl⟩, ⟨_, rfl⟩, ⟨_, rfl⟩, ⟨_, rfl⟩, ⟨_, rfl⟩, by decide⟩

/-- RandomIsMaskedSample: a supplied sample, and bytes inside a mask at its ends. -/
theorem witness_random :
    ({ State.reset with rndIn := ⟨[0xA7, 0x3C], 0⟩ } : State).rndIn.pending = 0xA7 :: [0x3C] ∧
    (0x00 : Byte) &&& ~~~(0x00 : Byte) = 0 ∧ (0x0F : Byte) &&& ~~~(0x0F : Byte) = 0 ∧
    (0xFF : Byte) &&& ~~~(0xFF : Byte) = 0 := by decide

/-- StoreDecimalDigits, StoreRegisters, LoadRegisters, FetchSeesStore at their last bases, in canonical memory. -/
theorem witness_store_ranges :
    State.reset.memory.wf = true ∧ (0x0FFD : Word).toNat ≤ 0xFFD ∧ (0x0FF0 : Word).toNat + (15 : RegNum).val ≤ 0xFFF ∧
    (0x0FFF : Word).toNat + (0 : RegNum).val ≤ 0xFFF ∧ (15 : RegNum) ≤ 15 ∧ (14 : RegNum).val + 1 = (15 : RegNum).val ∧
    (0x0FFE : Word).toNat = (0x0FF0 : Word).toNat + (14 : RegNum).val := by decide

/-- DrawIsClippedXor: `n = 0` at any base, and the last base in range; a collision and none. -/
theorem witness_draw :
    ((0 : Fin 16).val = 0 ∨ (0xFFFF : Word).toNat + (0 : Fin 16).val ≤ 0x1000) ∧
    ((5 : Fin 16).val = 0 ∨ (0x0FFB : Word).toNat + (5 : Fin 16).val ≤ 0x1000) ∧
    ({ State.reset with i := 0x0069, display := blankDisplay.setPixel 0 0 true } : State).spriteAt 0 1 5 0 0 = true ∧
    ({ State.reset with i := 0x0069, display := blankDisplay.setPixel 0 0 true } : State).display.pixel 0 0 = true ∧
    State.reset.display.pixel 0 0 = false := by decide +kernel

/-- DrawTwiceRestores. -/
theorem witness_draw_twice :
    ∃ t, exec (.drw 0 1 5) { State.reset with i := 0x0069 } = .next t ∧
      t.anchorX 0 = State.reset.anchorX 0 ∧ t.anchorY 1 = State.reset.anchorY 1 :=
  ⟨_, rfl, by decide +kernel, by decide +kernel⟩

/-- SkipOnKey at key 0 and key 15. -/
theorem witness_key :
    (0 : Fin 16).val = ((withRegs [(2, 0xF0)]).reg 2).toNat % 16 ∧
    (15 : Fin 16).val = ((withRegs [(2, 0x0F)]).reg 2).toNat % 16 := by decide

/-- WaitForKey, both clauses. -/
theorem witness_wait :
    State.reset.keys = 0 ∧ ({ State.reset with keys := 0x8000 } : State).keys ≠ 0 := by decide

/-- A machine that waits for a key while the port shows none. -/
abbrev waiting : State := { (ready 0xF40A) with status := .awaitingKey, keysIn := ⟨[0], 0⟩ }

/-- WaitingOnlyPolls. -/
theorem witness_waiting : waiting.Inv ∧ waiting.status = .awaitingKey ∧ waiting.beginSlot.keys = 0 :=
  ⟨{ memoryWf := by decide, pcBound := by decide, stackBound := by decide, haltedIffCause := by decide,
     waitingAtKeyWait := by decide, slotBound := .inl rfl, slotTicking := by decide },
   rfl, rfl⟩

/-- LoadIsAllOrNothing on both sides of the bound; LoadOnlyBeforeTheFirstTick. -/
theorem witness_load :
    State.reset.memory.wf = true ∧ State.reset.phase = .awaitingLoad ∧ 0xFFF + [(0xCD : Byte)].length ≤ 0x1000 ∧
    0x1000 < 0xFFF + [(0xCD : Byte), 0xCD].length ∧ ({ State.reset with phase := .loaded } : State).phase ≠ .awaitingLoad := by
  decide

end Sys2Proof.Tests
end

section
/-! PROOFS. The instruction fetch and its bound (20_memory.md R54, R55). -/

namespace Sys2Proof.Machine

/-- Up to 0xFFE a fetch answers the word of the two bytes. -/
theorem Memory.fetch_of_le (m : Memory) {a : Word} (ha : a.toNat ≤ 0xFFE) :
    m.fetch a = some (wordOfBytes (m.read a.toNat) (m.read (a.toNat + 1))) :=
  Memory.fetch_eq_some.mpr ⟨ha, rfl⟩

/-- A running slot whose fetch fails raises FetchOutOfBounds (60_exceptions.md R226). -/
theorem slotStep_of_fetch_eq_none {s : State} (hs : s.status ≠ .halted) (hf : s.memory.fetch s.pc = none) :
    slotStep s = .next (s.raise .fetchOutOfBounds) := by
  obtain ⟨h, -⟩ | ⟨-, -, h⟩ | ⟨w, i, -, h, -⟩ | ⟨w, e, -, h, -⟩ := slotStep_cases s
  · exact absurd h hs
  · exact h
  · simp [hf] at h
  · simp [hf] at h

end Sys2Proof.Machine

namespace Sys2Proof.Proofs.Memory

open Sys2Proof Sys2Proof.Machine

/-- Settles O6: the fetched word is `wordOfBytes` of the two bytes, whose value and high byte are known. -/
theorem fetchIsBigEndian : Obligations.FetchIsBigEndian := by
  intro m a ha
  exact ⟨_, m.fetch_of_le ha, wordOfBytes_toNat _ _, highByte_wordOfBytes _ _⟩

/-- Settles O7: above 0xFFE the fetch fails, and the slot's raise is the state written out; up to 0xFFE it answers. -/
theorem fetchBound : Obligations.FetchBound := by
  intro s hs
  constructor
  · intro hpc
    exact slotStep_of_fetch_eq_none hs (Memory.fetch_eq_none.mpr hpc)
  · intro hpc
    exact ⟨_, s.memory.fetch_of_le hpc⟩

end Sys2Proof.Proofs.Memory
end

section
/-! PROOFS. Control transfer: jump, call, return and the skips (40_control_transfer.md R90-R96). -/

namespace Sys2Proof.Machine

/-- The zero-extended address field as the word of its number (30_encoding.md R73). -/
theorem addrOperand_eq_ofNat (nnn : Addr12) : addrOperand nnn = BitVec.ofNat 16 nnn.toNat :=
  (BitVec.ofNat_toNat 16 nnn).symm

/-- With slot `k` free a push fills it. -/
theorem State.push_of_sp_eq_castSucc {s : State} {k : Fin 16} (hk : s.sp = k.castSucc) (ret : Word) :
    s.push ret = some { s with stack := s.stack.set k.val ret k.isLt, sp := k.succ } := by
  obtain ⟨_, h⟩ | ⟨hfull, -⟩ := s.push_cases ret
  · simp only [hk] at h
    exact h
  · exact absurd (hk.symm.trans hfull) (Fin.castSucc_lt_last k).ne

/-- A full stack takes no push. -/
theorem State.push_of_sp_eq_full {s : State} (hfull : s.sp = 16) (ret : Word) : s.push ret = none := by
  obtain ⟨hfree, -⟩ | ⟨-, h⟩ := s.push_cases ret
  · exact absurd (congrArg Fin.val hfull) hfree.ne
  · exact h

/-- With slot `k` the newest a pop takes it and leaves it in place. -/
theorem State.pop_of_sp_eq_succ {s : State} {k : Fin 16} (hk : s.sp = k.succ) :
    s.pop = some (s.stack[k], { s with sp := k.castSucc }) := by
  obtain ⟨_, h⟩ | ⟨hempty, -⟩ := s.pop_cases
  · simp only [hk] at h
    exact h
  · exact absurd (hk.symm.trans hempty) (Fin.succ_ne_zero k)

/-- An empty stack gives no return address. -/
theorem State.pop_of_sp_eq_zero {s : State} (hempty : s.sp = 0) : s.pop = none := by
  obtain ⟨hused, -⟩ | ⟨-, h⟩ := s.pop_cases
  · exact absurd (congrArg Fin.val hempty) hused.ne'
  · exact h

/-- CALL after a push that succeeds is the jump (R92). -/
theorem exec_call_of_push_eq_some {s t : State} (h : s.push (s.pc + 2) = some t) (nnn : Addr12) :
    exec (.call nnn) s = .next (t.goto (addrOperand nnn)) := by
  simp only [exec, execCall, h]

/-- CALL without a free slot raises StackOverflow (R92). -/
theorem exec_call_of_push_eq_none {s : State} (h : s.push (s.pc + 2) = none) (nnn : Addr12) :
    exec (.call nnn) s = .next (s.raise .stackOverflow) := by
  simp only [exec, execCall, h]

/-- RET after a pop that succeeds goes to the popped address (R90). -/
theorem exec_ret_of_pop_eq_some {s t : State} {target : Word} (h : s.pop = some (target, t)) :
    exec .ret s = .next (t.goto target) := by
  simp only [exec, execRet, h]

/-- RET without a return address raises StackUnderflow (R90). -/
theorem exec_ret_of_pop_eq_none {s : State} (h : s.pop = none) :
    exec .ret s = .next (s.raise .stackUnderflow) := by
  simp only [exec, execRet, h]

/-- A skip when `p` holds (R93, R95). -/
theorem State.skipIf_decide (s : State) (p : Prop) [Decidable p] :
    s.skipIf (decide p) = { s with pc := if p then s.pc + 4 else s.pc + 2 } := by
  by_cases hp : p <;> simp [State.skipIf, State.goto, hp]

/-- A skip when `p` fails (R94, R96). -/
theorem State.skipIf_decide_not (s : State) (p : Prop) [Decidable p] :
    s.skipIf (decide ¬p) = { s with pc := if p then s.pc + 2 else s.pc + 4 } := by
  by_cases hp : p <;> simp [State.skipIf, State.goto, hp]

end Sys2Proof.Machine

namespace Sys2Proof.Proofs.Control

open Sys2Proof Sys2Proof.Machine

/-- Settles O22: JP is `goto` of the zero-extended operand. -/
theorem jumpLoadsTarget : Obligations.JumpLoadsTarget := by
  intro s nnn
  have hexec : exec (.jp nnn) s = .next (s.goto (addrOperand nnn)) := rfl
  rw [hexec, addrOperand_eq_ofNat]
  rfl

/-- Settles O23: a push into slot `k` and the jump, or the raise on a full stack. -/
theorem callPushesReturnAddress : Obligations.CallPushesReturnAddress := by
  intro s nnn
  constructor
  · intro k hk
    rw [exec_call_of_push_eq_some (State.push_of_sp_eq_castSucc hk _), addrOperand_eq_ofNat]
    rfl
  · intro hfull
    exact exec_call_of_push_eq_none (State.push_of_sp_eq_full hfull _) nnn

/-- Settles O24: a pop of slot `k` and the jump to what it holds, or the raise on an empty stack. -/
theorem returnPopsReturnAddress : Obligations.ReturnPopsReturnAddress := by
  intro s
  constructor
  · intro k hk
    exact exec_ret_of_pop_eq_some (State.pop_of_sp_eq_succ hk)
  · intro hempty
    exact exec_ret_of_pop_eq_none (State.pop_of_sp_eq_zero hempty)

/-- Settles O26: 3xnn skips when `V[x] = nn` holds, 4xnn when it fails. -/
theorem skipOnImmediate : Obligations.SkipOnImmediate := by
  intro s x nn
  constructor
  · exact congrArg Host.Outcome.next (s.skipIf_decide (s.reg x = nn))
  · exact congrArg Host.Outcome.next (s.skipIf_decide_not (s.reg x = nn))

/-- Settles O27: 5xy0 skips when `V[x] = V[y]` holds, 9xy0 when it fails. -/
theorem skipOnRegisters : Obligations.SkipOnRegisters := by
  intro s x y
  constructor
  · exact congrArg Host.Outcome.next (s.skipIf_decide (s.reg x = s.reg y))
  · exact congrArg Host.Outcome.next (s.skipIf_decide_not (s.reg x = s.reg y))

end Sys2Proof.Proofs.Control
end

section
/-! PROOFS. Immediate loads, additions and the carry (41_alu.md R110, R111, R116). -/

namespace Sys2Proof.Machine

/-- A byte sum is the exact sum modulo 256 (R111, R116). -/
theorem byte_add_eq_ofNat_mod (a b : Byte) : a + b = BitVec.ofNat 8 ((a.toNat + b.toNat) % 256) :=
  BitVec.eq_of_toNat_eq (by simp)

/-- The carry as the byte the exact sum decides (R116, R122). -/
theorem carryFlag_eq_ite (a b : Byte) : carryFlag a b = if a.toNat + b.toNat > 255 then 1 else 0 := by
  simp only [carryFlag, flagByte, decide_eq_true_eq]

/-- A register write that advances, as a whole state. -/
theorem State.setReg_advance_eq (s : State) (x : RegNum) (b : Byte) :
    (s.setReg x b).advance = { s with v := s.v.set x.val b x.isLt, pc := s.pc + 2 } := rfl

/-- The destination's write, then the flag's, as a whole state. -/
theorem State.writeFlagged_eq (s : State) (x : RegNum) (t f : Byte) :
    s.writeFlagged x t f = { s with v := (s.v.set x.val t x.isLt).set 15 f, pc := s.pc + 2 } := rfl

/-- 6xnn is the register write and the advance (R110). -/
theorem exec_ldImm (x : RegNum) (nn : Byte) (s : State) :
    exec (.ldImm x nn) s = .next (s.setReg x nn).advance := rfl

/-- 7xnn writes only its destination (R111). -/
theorem exec_addImm (x : RegNum) (nn : Byte) (s : State) :
    exec (.addImm x nn) s = .next (s.setReg x (s.reg x + nn)).advance := rfl

/-- 8xy4 writes the sum before the carry (R116). -/
theorem exec_addReg (x y : RegNum) (s : State) :
    exec (.addReg x y) s =
      .next (s.writeFlagged x (s.reg x + s.reg y) (carryFlag (s.reg x) (s.reg y))) := rfl

end Sys2Proof.Machine

namespace Sys2Proof.Proofs.Alu

open Sys2Proof Sys2Proof.Machine

/-- Settles O30: one register write and the advance, of the operand or of the sum modulo 256. -/
theorem loadAndAddImmediate : Obligations.LoadAndAddImmediate := by
  intro s x nn
  constructor
  · rw [exec_ldImm, State.setReg_advance_eq]
  · rw [exec_addImm, byte_add_eq_ofNat_mod, State.setReg_advance_eq]

/-- Settles O32: the flagged write of the sum modulo 256 and of the carry the exact sum decides. -/
theorem addSetsCarry : Obligations.AddSetsCarry := by
  intro s x y
  rw [exec_addReg, byte_add_eq_ofNat_mod, carryFlag_eq_ite, State.writeFlagged_eq]

end Sys2Proof.Proofs.Alu
end

section
/-! PROOFS. The index register's load (42_index_and_memory.md R141). -/

namespace Sys2Proof.Machine

/-- A write of `I` that advances, as a whole state. -/
theorem State.withIndex_advance_eq (s : State) (w : Word) :
    { s with i := w }.advance = { s with i := w, pc := s.pc + 2 } := rfl

/-- Annn is the write of `I` with its address operand and the advance (R141). -/
theorem exec_ldI (nnn : Addr12) (s : State) :
    exec (.ldI nnn) s = .next { s with i := addrOperand nnn }.advance := rfl

end Sys2Proof.Machine

namespace Sys2Proof.Proofs.Index

open Sys2Proof Sys2Proof.Machine

/-- Settles O37: one write of `I`, of the zero-extended operand, and the advance. -/
theorem loadIndex : Obligations.LoadIndex := by
  intro s nnn
  rw [exec_ldI, addrOperand_eq_ofNat, State.withIndex_advance_eq]

end Sys2Proof.Proofs.Index
end

section
/-! PROOFS. The screen clear (43_display.md R160). -/

namespace Sys2Proof.Machine

/-- 00E0 blanks the display and advances (R160). -/
theorem exec_cls (s : State) : exec .cls s = .next { s with display := blankDisplay }.advance := rfl

/-- A replaced display and the advance, as a whole state. -/
theorem State.withDisplay_advance_eq (s : State) (d : Display) :
    { s with display := d }.advance = { s with display := d, pc := s.pc + 2 } := rfl

end Sys2Proof.Machine

namespace Sys2Proof.Proofs.Display

open Sys2Proof Sys2Proof.Machine

/-- Settles O43: the next state carries the blank display, in which no pixel is set. -/
theorem clearScreen : Obligations.ClearScreen := by
  intro s
  refine ⟨{ s with display := blankDisplay, pc := s.pc + 2 }, ?_, ?_, ?_⟩
  · rw [exec_cls, State.withDisplay_advance_eq]
  · exact blankDisplay_pixel
  · rfl

end Sys2Proof.Proofs.Display
end

section
/-! PROOFS. Decoder and encoder as inverses, the opcode rows and the words that are no instruction
(30_encoding.md R70-R76). -/

namespace Sys2Proof

/-! The three formats rebuilt from a word's own fields (R71, R72). -/

theorem wordA_fields (w : Word) : wordA (fieldOp w) (fieldNnn w) = w := by
  apply BitVec.eq_of_toNat_eq
  rw [wordA_toNat, fieldOp_toNat, fieldNnn_toNat]
  omega

theorem wordXI_fields (w : Word) : wordXI (fieldOp w) (fieldX w) (fieldNn w) = w := by
  apply BitVec.eq_of_toNat_eq
  rw [wordXI_toNat, fieldOp_toNat, fieldX_val, fieldNn_toNat]
  omega

theorem wordXYN_fields (w : Word) : wordXYN (fieldOp w) (fieldX w) (fieldY w) (fieldN w) = w := by
  apply BitVec.eq_of_toNat_eq
  rw [wordXYN_toNat, fieldOp_toNat, fieldX_val, fieldY_val, fieldN_val]
  omega

/-! Decoding after encoding. -/

/-- The decoder takes an encoded instruction's operands back out of its fields (R74, R75). -/
@[simp] theorem decodeWord_encode (i : Instr) : decodeWord (encode i) = .ok i := by
  cases i <;> simp [decodeWord, decode8, decodeF, encode]
  case cls => decide
  case ret => decide

/-- No two instructions share a word. -/
theorem encode_injective : Function.Injective encode := by
  intro i j h
  have hdecode := decodeWord_encode i
  rw [h, decodeWord_encode] at hdecode
  cases hdecode
  rfl

/-- The decoder reads an instruction's two bytes and leaves the bytes after them (R54, R70). -/
theorem decodeBytes_encodeBytes (i : Instr) (rest : List Byte) :
    decodeBytes (encodeBytes i ++ rest) = .ok (i, rest) := by
  simp [encodeBytes, decodeBytes]

/-- A 16-bit table word of an instruction is its word. -/
theorem tableWord_toNat (w : Word) : tableWord 16 w.toNat = w := by
  simp only [tableWord, Nat.mod_eq_of_lt w.isLt, BitVec.ofNat_toNat, BitVec.setWidth_eq]

/-- The table word of an instruction decodes to it. -/
theorem decodeTableWord_encode (i : Instr) : decodeTableWord 16 (encode i).toNat = some i := by
  simp [decodeTableWord, tableWord_toNat, decodeBytes]

/-! Encoding after decoding. -/

theorem encode_of_decode8 {x y : RegNum} {n : Fin 16} {i : Instr} (h : decode8 x y n = .ok i) :
    encode i = wordXYN 0x8 x y n := by
  unfold decode8 at h
  split_ifs at h <;> cases h <;> simp_all [encode]

theorem encode_of_decodeF {x : RegNum} {nn : Byte} {i : Instr} (h : decodeF x nn = .ok i) :
    encode i = wordXI 0xF x nn := by
  unfold decodeF at h
  split_ifs at h <;> cases h <;> simp_all [encode]


/-- The sixteen groups of R74. -/
theorem opcode_cases : ∀ op : BitVec 4,
    op = 0x0 ∨ op = 0x1 ∨ op = 0x2 ∨ op = 0x3 ∨ op = 0x4 ∨ op = 0x5 ∨ op = 0x6 ∨ op = 0x7 ∨
      op = 0x8 ∨ op = 0x9 ∨ op = 0xA ∨ op = 0xB ∨ op = 0xC ∨ op = 0xD ∨ op = 0xE ∨ op = 0xF := by
  decide

/-- What the decode tree answers in each group (R74). -/
theorem decodeWord_cases (w : Word) :
    (fieldOp w = 0x0 ∧ decodeWord w =
      if w = 0x00E0 then .ok .cls else if w = 0x00EE then .ok .ret else .error .unrecognised0) ∨
    (fieldOp w = 0x1 ∧ decodeWord w = .ok (.jp (fieldNnn w))) ∨
    (fieldOp w = 0x2 ∧ decodeWord w = .ok (.call (fieldNnn w))) ∨
    (fieldOp w = 0x3 ∧ decodeWord w = .ok (.seImm (fieldX w) (fieldNn w))) ∨
    (fieldOp w = 0x4 ∧ decodeWord w = .ok (.sneImm (fieldX w) (fieldNn w))) ∨
    (fieldOp w = 0x5 ∧ decodeWord w =
      if fieldN w = 0 then .ok (.seReg (fieldX w) (fieldY w)) else .error .unrecognised5) ∨
    (fieldOp w = 0x6 ∧ decodeWord w = .ok (.ldImm (fieldX w) (fieldNn w))) ∨
    (fieldOp w = 0x7 ∧ decodeWord w = .ok (.addImm (fieldX w) (fieldNn w))) ∨
    (fieldOp w = 0x8 ∧ decodeWord w = decode8 (fieldX w) (fieldY w) (fieldN w)) ∨
    (fieldOp w = 0x9 ∧ decodeWord w =
      if fieldN w = 0 then .ok (.sneReg (fieldX w) (fieldY w)) else .error .unrecognised9) ∨
    (fieldOp w = 0xA ∧ decodeWord w = .ok (.ldI (fieldNnn w))) ∨
    (fieldOp w = 0xB ∧ decodeWord w = .ok (.jpV0 (fieldNnn w))) ∨
    (fieldOp w = 0xC ∧ decodeWord w = .ok (.rnd (fieldX w) (fieldNn w))) ∨
    (fieldOp w = 0xD ∧ decodeWord w = .ok (.drw (fieldX w) (fieldY w) (fieldN w))) ∨
    (fieldOp w = 0xE ∧ decodeWord w =
      if fieldNn w = 0x9E then .ok (.skp (fieldX w))
      else if fieldNn w = 0xA1 then .ok (.sknp (fieldX w)) else .error .unrecognisedE) ∨
    (fieldOp w = 0xF ∧ decodeWord w = decodeF (fieldX w) (fieldNn w)) := by
  rcases opcode_cases (fieldOp w) with e | e | e | e | e | e | e | e | e | e | e | e | e | e | e | e <;>
    simp [decodeWord, e]

/-- Whatever the decoder reads from a word, that word is its encoding (R74). -/
theorem encode_of_decodeWord {w : Word} {i : Instr} (h : decodeWord w = .ok i) : encode i = w := by
  have hA := wordA_fields w
  have hXI := wordXI_fields w
  have hXYN := wordXYN_fields w
  rcases decodeWord_cases w with ⟨e, hd⟩ | ⟨e, hd⟩ | ⟨e, hd⟩ | ⟨e, hd⟩ | ⟨e, hd⟩ | ⟨e, hd⟩ | ⟨e, hd⟩ | ⟨e, hd⟩ |
    ⟨e, hd⟩ | ⟨e, hd⟩ | ⟨e, hd⟩ | ⟨e, hd⟩ | ⟨e, hd⟩ | ⟨e, hd⟩ | ⟨e, hd⟩ | ⟨e, hd⟩ <;> rw [hd] at h <;>
    rw [e] at hA hXI hXYN
  · split_ifs at h with h00E0 h00EE <;> cases h <;> symm
    · exact h00E0
    · exact h00EE
  · cases h; exact hA
  · cases h; exact hA
  · cases h; exact hXI
  · cases h; exact hXI
  · split_ifs at h with hn
    cases h; rw [hn] at hXYN; exact hXYN
  · cases h; exact hXI
  · cases h; exact hXI
  · exact (encode_of_decode8 h).trans hXYN
  · split_ifs at h with hn
    cases h; rw [hn] at hXYN; exact hXYN
  · cases h; exact hA
  · cases h; exact hA
  · cases h; exact hXI
  · cases h; exact hXYN
  · split_ifs at h with hskp hsknp <;> cases h
    · rw [hskp] at hXI; exact hXI
    · rw [hsknp] at hXI; exact hXI
  · exact (encode_of_decodeF h).trans hXI

/-! Match and mask: what a word keeps under each mask of R75, and so which fields a row compares. -/

theorem and_maskOp (w : Word) : w &&& 0xF000#16 = wordA (fieldOp w) 0#12 := by
  have hmask : 0xF000#16 = BitVec.allOnes 4 ++ 0#12 := by decide
  conv => lhs; rw [← wordA_fields w, hmask, wordA, BitVec.and_append, BitVec.and_allOnes, BitVec.and_zero]
  rfl

theorem and_maskOpN (w : Word) : w &&& 0xF00F#16 = wordXYN (fieldOp w) 0 0 (fieldN w) := by
  have hmask : 0xF00F#16 = BitVec.allOnes 4 ++ 0#4 ++ 0#4 ++ BitVec.allOnes 4 := by decide
  conv =>
    lhs
    rw [← wordXYN_fields w, hmask, wordXYN, BitVec.and_append, BitVec.and_append, BitVec.and_append,
      BitVec.and_allOnes, BitVec.and_allOnes, BitVec.and_zero, BitVec.and_zero]
  rfl

theorem and_maskOpNn (w : Word) : w &&& 0xF0FF#16 = wordXI (fieldOp w) 0 (fieldNn w) := by
  have hmask : 0xF0FF#16 = BitVec.allOnes 4 ++ 0#4 ++ BitVec.allOnes 8 := by decide
  conv =>
    lhs
    rw [← wordXI_fields w, hmask, wordXI, BitVec.and_append, BitVec.and_append, BitVec.and_allOnes,
      BitVec.and_allOnes, BitVec.and_zero]
  rfl

/-- A row with mask F000 compares the opcode. -/
theorem selects_maskOp {w : Word} (op : BitVec 4) :
    OpcodeRow.selects ⟨wordA op 0#12, 0xF000#16⟩ w = true ↔ fieldOp w = op := by
  rw [OpcodeRow.selects, decide_eq_true_eq, and_maskOp]
  constructor
  · intro h
    simpa using congrArg fieldOp h
  · rintro rfl
    rfl

/-- A row with mask F00F compares the opcode and the low nibble. -/
theorem selects_maskOpN {w : Word} (op : BitVec 4) (n : Fin 16) :
    OpcodeRow.selects ⟨wordXYN op 0 0 n, 0xF00F#16⟩ w = true ↔ fieldOp w = op ∧ fieldN w = n := by
  rw [OpcodeRow.selects, decide_eq_true_eq, and_maskOpN]
  constructor
  · intro h
    exact ⟨by simpa using congrArg fieldOp h, by simpa using congrArg fieldN h⟩
  · rintro ⟨rfl, rfl⟩
    rfl

/-- A row with mask F0FF compares the opcode and the low byte. -/
theorem selects_maskOpNn {w : Word} (op : BitVec 4) (nn : Byte) :
    OpcodeRow.selects ⟨wordXI op 0 nn, 0xF0FF#16⟩ w = true ↔ fieldOp w = op ∧ fieldNn w = nn := by
  rw [OpcodeRow.selects, decide_eq_true_eq, and_maskOpNn]
  constructor
  · intro h
    exact ⟨by simpa using congrArg fieldOp h, by simpa using congrArg fieldNn h⟩
  · rintro ⟨rfl, rfl⟩
    rfl

theorem eq_of_selects_fullMask {w m : Word} (h : OpcodeRow.selects ⟨m, 0xFFFF⟩ w = true) : m = w := by
  have hmask : (0xFFFF : Word) = BitVec.allOnes 16 := by decide
  rw [OpcodeRow.selects, decide_eq_true_eq, hmask, BitVec.and_allOnes] at h
  exact h.symm

/-- An instruction's word selects its row. -/
theorem row_selects_encode (i : Instr) : i.row.selects (encode i) = true := by
  cases i <;>
    simp [OpcodeRow.selects, Instr.row, encode, and_maskOp, and_maskOpN, and_maskOpNn] <;>
    rfl

/-! A selected word, rebuilt from the fields its row compares and the fields it leaves to the operands. -/

section Selected

variable {w : Word} (op : BitVec 4)

theorem wordA_of_selects (h : OpcodeRow.selects ⟨wordA op 0#12, 0xF000#16⟩ w = true) : wordA op (fieldNnn w) = w :=
  (selects_maskOp op).1 h ▸ wordA_fields w

theorem wordXI_of_selects (h : OpcodeRow.selects ⟨wordA op 0#12, 0xF000#16⟩ w = true) :
    wordXI op (fieldX w) (fieldNn w) = w :=
  (selects_maskOp op).1 h ▸ wordXI_fields w

theorem wordXYN_of_selects (h : OpcodeRow.selects ⟨wordA op 0#12, 0xF000#16⟩ w = true) :
    wordXYN op (fieldX w) (fieldY w) (fieldN w) = w :=
  (selects_maskOp op).1 h ▸ wordXYN_fields w

theorem wordXYN_of_selects_low (n : Fin 16) (h : OpcodeRow.selects ⟨wordXYN op 0 0 n, 0xF00F#16⟩ w = true) :
    wordXYN op (fieldX w) (fieldY w) n = w := by
  obtain ⟨rfl, rfl⟩ := (selects_maskOpN op n).1 h
  exact wordXYN_fields w

theorem wordXI_of_selects_low (nn : Byte) (h : OpcodeRow.selects ⟨wordXI op 0 nn, 0xF0FF#16⟩ w = true) :
    wordXI op (fieldX w) nn = w := by
  obtain ⟨rfl, rfl⟩ := (selects_maskOpNn op nn).1 h
  exact wordXI_fields w

end Selected

/-- A word that selects a row is the word of an instruction of that row: the fields the row does not compare are its
operands (R75). -/
theorem exists_encode_of_row_selects {i : Instr} {w : Word} (h : i.row.selects w = true) :
    ∃ j : Instr, encode j = w ∧ j.row = i.row := by
  cases i with
  | cls => exact ⟨.cls, eq_of_selects_fullMask h, rfl⟩
  | ret => exact ⟨.ret, eq_of_selects_fullMask h, rfl⟩
  | jp _ => exact ⟨.jp (fieldNnn w), wordA_of_selects 0x1 h, rfl⟩
  | call _ => exact ⟨.call (fieldNnn w), wordA_of_selects 0x2 h, rfl⟩
  | ldI _ => exact ⟨.ldI (fieldNnn w), wordA_of_selects 0xA h, rfl⟩
  | jpV0 _ => exact ⟨.jpV0 (fieldNnn w), wordA_of_selects 0xB h, rfl⟩
  | seImm _ _ => exact ⟨.seImm (fieldX w) (fieldNn w), wordXI_of_selects 0x3 h, rfl⟩
  | sneImm _ _ => exact ⟨.sneImm (fieldX w) (fieldNn w), wordXI_of_selects 0x4 h, rfl⟩
  | ldImm _ _ => exact ⟨.ldImm (fieldX w) (fieldNn w), wordXI_of_selects 0x6 h, rfl⟩
  | addImm _ _ => exact ⟨.addImm (fieldX w) (fieldNn w), wordXI_of_selects 0x7 h, rfl⟩
  | rnd _ _ => exact ⟨.rnd (fieldX w) (fieldNn w), wordXI_of_selects 0xC h, rfl⟩
  | seReg _ _ => exact ⟨.seReg (fieldX w) (fieldY w), wordXYN_of_selects_low 0x5 0x0 h, rfl⟩
  | ldReg _ _ => exact ⟨.ldReg (fieldX w) (fieldY w), wordXYN_of_selects_low 0x8 0x0 h, rfl⟩
  | orReg _ _ => exact ⟨.orReg (fieldX w) (fieldY w), wordXYN_of_selects_low 0x8 0x1 h, rfl⟩
  | andReg _ _ => exact ⟨.andReg (fieldX w) (fieldY w), wordXYN_of_selects_low 0x8 0x2 h, rfl⟩
  | xorReg _ _ => exact ⟨.xorReg (fieldX w) (fieldY w), wordXYN_of_selects_low 0x8 0x3 h, rfl⟩
  | addReg _ _ => exact ⟨.addReg (fieldX w) (fieldY w), wordXYN_of_selects_low 0x8 0x4 h, rfl⟩
  | subReg _ _ => exact ⟨.subReg (fieldX w) (fieldY w), wordXYN_of_selects_low 0x8 0x5 h, rfl⟩
  | shr _ _ => exact ⟨.shr (fieldX w) (fieldY w), wordXYN_of_selects_low 0x8 0x6 h, rfl⟩
  | subn _ _ => exact ⟨.subn (fieldX w) (fieldY w), wordXYN_of_selects_low 0x8 0x7 h, rfl⟩
  | shl _ _ => exact ⟨.shl (fieldX w) (fieldY w), wordXYN_of_selects_low 0x8 0xE h, rfl⟩
  | sneReg _ _ => exact ⟨.sneReg (fieldX w) (fieldY w), wordXYN_of_selects_low 0x9 0x0 h, rfl⟩
  | drw _ _ _ => exact ⟨.drw (fieldX w) (fieldY w) (fieldN w), wordXYN_of_selects 0xD h, rfl⟩
  | skp _ => exact ⟨.skp (fieldX w), wordXI_of_selects_low 0xE 0x9E h, rfl⟩
  | sknp _ => exact ⟨.sknp (fieldX w), wordXI_of_selects_low 0xE 0xA1 h, rfl⟩
  | ldVxDt _ => exact ⟨.ldVxDt (fieldX w), wordXI_of_selects_low 0xF 0x07 h, rfl⟩
  | ldVxK _ => exact ⟨.ldVxK (fieldX w), wordXI_of_selects_low 0xF 0x0A h, rfl⟩
  | ldDtVx _ => exact ⟨.ldDtVx (fieldX w), wordXI_of_selects_low 0xF 0x15 h, rfl⟩
  | ldStVx _ => exact ⟨.ldStVx (fieldX w), wordXI_of_selects_low 0xF 0x18 h, rfl⟩
  | addI _ => exact ⟨.addI (fieldX w), wordXI_of_selects_low 0xF 0x1E h, rfl⟩
  | ldF _ => exact ⟨.ldF (fieldX w), wordXI_of_selects_low 0xF 0x29 h, rfl⟩
  | ldB _ => exact ⟨.ldB (fieldX w), wordXI_of_selects_low 0xF 0x33 h, rfl⟩
  | storeRegs _ => exact ⟨.storeRegs (fieldX w), wordXI_of_selects_low 0xF 0x55 h, rfl⟩
  | loadRegs _ => exact ⟨.loadRegs (fieldX w), wordXI_of_selects_low 0xF 0x65 h, rfl⟩

/-! The words no instruction has (R76). -/

/-- A test of the decode tree errs when it fails and the rest of the tree errs. -/
theorem ite_ok_eq_error_iff {p : Prop} [Decidable p] (i : Instr) (rest : Except DecodeReject Instr) :
    (∃ e, (if p then .ok i else rest) = .error e) ↔ ¬p ∧ ∃ e, rest = .error e := by
  split_ifs with hp <;> simp [hp]

theorem decode8_eq_error_iff (x y : RegNum) (n : Fin 16) :
    (∃ e, decode8 x y n = .error e) ↔ n.val ∈ [0x8, 0x9, 0xA, 0xB, 0xC, 0xD, 0xF] := by
  fin_cases n <;> simp [decode8]

theorem decodeF_eq_error_iff (x : RegNum) (nn : Byte) :
    (∃ e, decodeF x nn = .error e) ↔ nn.toNat ∉ [0x07, 0x0A, 0x15, 0x18, 0x1E, 0x29, 0x33, 0x55, 0x65] := by
  simp [decodeF, ite_ok_eq_error_iff, ← BitVec.toNat_inj]


/-- A word decodes to nothing exactly in the six sets of R76: the groups `1` to `4`, `6`, `7` and `A` to `D` always
decode, each other one where its fields are listed. -/
theorem decodeWord_eq_error_iff (w : Word) :
    (∃ e, decodeWord w = .error e) ↔
      (fieldOp w = 0x0 ∧ w ≠ 0x00E0 ∧ w ≠ 0x00EE) ∨ (fieldOp w = 0x5 ∧ fieldN w ≠ 0) ∨
      (fieldOp w = 0x8 ∧ (fieldN w).val ∈ [0x8, 0x9, 0xA, 0xB, 0xC, 0xD, 0xF]) ∨ (fieldOp w = 0x9 ∧ fieldN w ≠ 0) ∨
      (fieldOp w = 0xE ∧ fieldNn w ≠ 0x9E ∧ fieldNn w ≠ 0xA1) ∨
      (fieldOp w = 0xF ∧ (fieldNn w).toNat ∉ [0x07, 0x0A, 0x15, 0x18, 0x1E, 0x29, 0x33, 0x55, 0x65]) := by
  rcases decodeWord_cases w with ⟨e, hd⟩ | ⟨e, hd⟩ | ⟨e, hd⟩ | ⟨e, hd⟩ | ⟨e, hd⟩ | ⟨e, hd⟩ | ⟨e, hd⟩ | ⟨e, hd⟩ |
    ⟨e, hd⟩ | ⟨e, hd⟩ | ⟨e, hd⟩ | ⟨e, hd⟩ | ⟨e, hd⟩ | ⟨e, hd⟩ | ⟨e, hd⟩ | ⟨e, hd⟩ <;>
    simp only [hd, e, ite_ok_eq_error_iff, decode8_eq_error_iff, decodeF_eq_error_iff, Except.error.injEq, exists_eq',
      BitVec.reduceEq, false_and, true_and, and_true, false_or, or_false, reduceCtorEq, exists_false, ne_eq]

end Sys2Proof

namespace Sys2Proof.Proofs.Encoding

open Sys2Proof Sys2Proof.Machine

/-- Settles O1: the decoder takes an encoded instruction back, as a word, as bytes and as a table word. -/
theorem decodeOfEncode : Obligations.DecodeOfEncode := by
  intro i rest
  exact ⟨decodeWord_encode i, decodeBytes_encodeBytes i rest, decodeTableWord_encode i⟩

/-- Settles O2: a decoded word is rebuilt from its own fields. -/
theorem encodeOfDecode : Obligations.EncodeOfDecode := by
  intro w i h
  exact encode_of_decodeWord h

/-- Settles O3: a selected word is the word of an instruction of the row, and a word decodes to one instruction. -/
theorem decodeByOpcodeRows : Obligations.DecodeByOpcodeRows := by
  refine ⟨?_, ?_, ?_⟩
  · intro w i h
    exact encode_of_decodeWord h ▸ row_selects_encode i
  · intro w i h
    obtain ⟨j, rfl, hj⟩ := exists_encode_of_row_selects h
    exact ⟨j, decodeWord_encode j, hj⟩
  · intro i j w hi hj
    obtain ⟨k, rfl, hk⟩ := exists_encode_of_row_selects hi
    obtain ⟨l, hkl, hl⟩ := exists_encode_of_row_selects hj
    cases encode_injective hkl
    exact hk.symm.trans hl

/-- Settles O4: the groups of the decode tree that answer an error, their fields read as numbers. -/
theorem unrecognisedWordsOfTheTable : Obligations.UnrecognisedWordsOfTheTable := by
  intro w
  rw [decodeWord_eq_error_iff]
  simp only [← BitVec.toNat_inj, Fin.ext_iff, ne_eq, fieldOp_toNat, fieldN_val, fieldNn_toNat]
  rfl

/-- Settles O5: each word is the encoding of its instruction. -/
theorem tableWordsDecode : Obligations.TableWordsDecode := by
  exact ⟨decodeWord_encode .cls, decodeWord_encode (.call 0x345), decodeWord_encode (.ldImm 0xA 0x2C),
    decodeWord_encode (.addReg 0xF 0x1), decodeWord_encode (.drw 0 1 5), decodeWord_encode (.ldB 5)⟩

end Sys2Proof.Proofs.Encoding
end

section
/-! PROOFS. What every instruction can do: it raises on the condition of its row and changes nothing else, or it
completes within its frame (10_state.md R39, 60_exceptions.md R220, R226). -/

namespace Sys2Proof

open Sys2Proof.Machine

/-- Where an instruction can leave `pc`: in place, past one or two words, at an address operand, at the indexed sum, or
at a saved return address (30_encoding.md R78, 40_control_transfer.md R90 to R98). -/
inductive PcTarget (s : State) : Word → Prop
  | stay : PcTarget s s.pc
  | advance : PcTarget s (s.pc + 2)
  | skip : PcTarget s (s.pc + 4)
  | address (nnn : Addr12) : PcTarget s (addrOperand nnn)
  | indexed (nnn : Addr12) : PcTarget s (addrOperand nnn + s.regWord 0)
  | popped (k : Fin 16) : PcTarget s s.stack[k]

/-- The answer `t` of `i` to `s` keeps what the frame of `i` says, whether or not `i` raises (R39). -/
structure Instr.Keeps (i : Instr) (s t : State) : Prop where
  reg : ∀ r, i.writesReg r = false → t.reg r = s.reg r
  pc : PcTarget s t.pc
  index : (∀ nnn, i ≠ .ldI nnn) → (∀ x, i ≠ .addI x) → (∀ x, i ≠ .ldF x) → t.i = s.i
  stack : ∀ k : Fin 16, t.stack[k] = s.stack[k] ∨
    ((∃ nnn, i = .call nnn) ∧ k.val = s.sp.val ∧ t.stack[k] = s.pc + 2)
  sp : (∀ nnn, i ≠ .call nnn) → i ≠ .ret → t.sp = s.sp
  dt : (∀ x, i ≠ .ldDtVx x) → t.dt = s.dt
  st : (∀ x, i ≠ .ldStVx x) → t.st = s.st
  display : i ≠ .cls → (∀ x y n, i ≠ .drw x y n) → t.display = s.display
  memory : ∀ a : Nat, ¬ (s.i.toNat ≤ a ∧ a < s.i.toNat + i.storeLength) → t.memory.read a = s.memory.read a
  memoryWf : s.memory.wf = true → t.memory.wf = true
  keys : t.keys = s.keys
  tone : t.tone = s.tone
  params : t.params = s.params
  slot : t.slot = s.slot
  keysIn : t.keysIn = s.keysIn
  phase : t.phase = s.phase
  rndIn : (∀ x nn, i ≠ .rnd x nn) → t.rndIn = s.rndIn

/-- The answer `t` of `i` to `s` when `i` raises nothing. -/
structure Instr.Completes (i : Instr) (s t : State) : Prop extends Instr.Keeps i s t where
  faultCause : t.faultCause = s.faultCause
  faultAddr : t.faultAddr = s.faultAddr
  status : (∀ x, i ≠ .ldVxK x) → t.status = s.status
  notHalted : s.status ≠ .halted → t.status ≠ .halted

namespace Instr

variable (i : Instr) (s : State)

theorem Keeps.refl : i.Keeps s s where
  reg _ _ := rfl
  pc := .stay
  index _ _ _ := rfl
  stack _ := .inl rfl
  sp _ _ := rfl
  dt _ := rfl
  st _ := rfl
  display _ _ := rfl
  memory _ _ := rfl
  memoryWf h := h
  keys := rfl
  tone := rfl
  params := rfl
  slot := rfl
  keysIn := rfl
  phase := rfl
  rndIn _ := rfl

theorem Completes.refl : i.Completes s s :=
  { Keeps.refl i s with
    faultCause := rfl
    faultAddr := rfl
    status := fun _ => rfl
    notHalted := id }

/-- An error is taken within every frame. -/
theorem Keeps.raise (c : FaultCause) : i.Keeps s (s.raise c) :=
  { Keeps.refl i s with }

theorem Completes.skipIf (c : Bool) : i.Completes s (s.skipIf c) :=
  { Completes.refl i s with
    pc := by cases c <;> constructor }

variable {i}

theorem Completes.setReg {x : RegNum} (hx : i.writesReg x = true) (b : Byte) :
    i.Completes s (s.setReg x b).advance :=
  { Completes.refl i s with
    pc := .advance
    reg := by
      intro r hr
      have hne : r ≠ x := by
        rintro rfl
        simp [hx] at hr
      simp [State.setReg_reg, hne] }

theorem Completes.writeFlagged {x : RegNum} (hx : i.writesReg x = true) (hf : i.writesReg flagReg = true)
    (t f : Byte) : i.Completes s (s.writeFlagged x t f) :=
  { Completes.refl i s with
    pc := .advance
    reg := by
      intro r hr
      exact ((Completes.setReg (s.setReg x t) hf f).reg r hr).trans ((Completes.setReg s hx t).reg r hr) }

end Instr

namespace Machine

/-- The data range check in the form of the error table. -/
theorem State.outOfRange_eq (s : State) (len : Nat) :
    s.outOfRange len = if rangeOk s.i len then none else some .dataAccessOutOfBounds := by
  have hfails : (0 < len ∧ s.i.toNat + len - 1 > 0xFFF) ↔ ¬ rangeOk s.i len = true := by
    rw [rangeOk_iff, memorySize]
    omega
  rw [State.outOfRange, if_congr hfails rfl rfl, ite_not]

/-- Fx55 stores one byte for each register up to `x`. -/
theorem State.regsUpTo_length (s : State) (x : RegNum) : (s.regsUpTo x).length = x.val + 1 := by
  simp [State.regsUpTo]

@[simp] theorem State.bytesAtI_length (s : State) (len : Nat) : (s.bytesAtI len).length = len := by
  simp [State.bytesAtI]

/-- A guarded read: the continuation on the bytes at `I`, or the raise, by the condition of the error table. -/
theorem withLoad_cases (len : Nat) (s : State) (k : List Byte → State) :
    (s.outOfRange len = none ∧ withLoad len s k = .next (k (s.bytesAtI len))) ∨
    (s.outOfRange len = some .dataAccessOutOfBounds ∧ withLoad len s k = .next (s.raise .dataAccessOutOfBounds)) := by
  rw [withLoad_eq, State.outOfRange_eq]
  split_ifs
  · exact .inl ⟨rfl, rfl⟩
  · exact .inr ⟨rfl, rfl⟩

end Machine

namespace Instr

/-- What a guarded store does to its instruction's frame: the bytes from `I` on, or the raise. -/
theorem withStore_completes {i : Instr} {bytes : List Byte} (hlen : bytes.length = i.storeLength) (s : State) :
    (s.outOfRange i.storeLength = some .dataAccessOutOfBounds ∧
      withStore bytes s = .next (s.raise .dataAccessOutOfBounds)) ∨
    (s.outOfRange i.storeLength = none ∧ ∃ t, withStore bytes s = .next t ∧ i.Completes s t) := by
  rw [State.outOfRange_eq, ← hlen]
  obtain ⟨hok, m, hm, h⟩ | ⟨hbad, h⟩ := withStore_cases bytes s
  · refine .inr ⟨by rw [hok]; rfl, _, h, ?_⟩
    exact { Completes.refl i s with
      pc := .advance
      memory := fun a ha => Memory.storeN_read_other hm (hlen.symm ▸ ha)
      memoryWf := fun hw => (Memory.storeN_spec hm hw).1 }
  · exact .inl ⟨by rw [hbad]; rfl, h⟩

/-- One poll of Fx0A stays within its frame. -/
theorem Completes.pollForKey (s : State) (x : RegNum) : Instr.Completes (.ldVxK x) s (s.pollForKey x) := by
  unfold State.pollForKey
  split
  · exact { Completes.setReg s (i := .ldVxK x) (x := x) (by simp [writesReg]) _ with
      status := fun h => absurd rfl (h x)
      notHalted := by simp }
  · exact { Completes.refl _ s with
      status := fun h => absurd rfl (h x)
      notHalted := by simp }

/-- A draw writes the display and the flag. -/
theorem Completes.drawSprite (s : State) (x y : RegNum) (n : Fin 16) (sprite : List Byte) :
    Instr.Completes (.drw x y n) s (s.drawSprite x y sprite) :=
  { Completes.setReg s (i := .drw x y n) (x := flagReg) (by simp [writesReg]) _ with
    display := fun _ h => absurd rfl (h x y n) }

/-- A load of registers writes those up to `x`. -/
theorem Completes.loadRegs (s : State) (x : RegNum) :
    Instr.Completes (.loadRegs x) s (s.setRegsFrom 0 (s.bytesAtI (x.val + 1))).advance := by
  rw [State.setRegsFrom_eq]
  exact { Completes.refl _ s with
    pc := .advance
    reg := by
      intro r hr
      have hnot : ¬ (0 ≤ r.val ∧ r.val < 0 + (s.bytesAtI (x.val + 1)).length) := by
        have hgt : ¬ r.val ≤ x.val := of_decide_eq_false hr
        rw [State.bytesAtI_length]
        omega
      exact (State.setRegsFrom_reg s 0 (s.bytesAtI (x.val + 1)) r).trans (dif_neg hnot) }

end Instr

/-- Every instruction either raises on the condition the error table gives it, with no other effect, or completes
within its frame (R39, R220, R226). -/
theorem exec_cases (i : Instr) (s : State) :
    (∃ c, c ≠ .none ∧ i.raises s = some c ∧ exec i s = .next (s.raise c)) ∨
    (i.raises s = none ∧ ∃ t, exec i s = .next t ∧ i.Completes s t) := by
  cases i with
  | cls =>
    exact .inr ⟨rfl, _, rfl, { Instr.Completes.refl _ s with
      pc := .advance
      display := fun h => absurd rfl h }⟩
  | ret =>
    obtain ⟨hused, h⟩ | ⟨hempty, h⟩ := s.pop_cases
    · have hne : s.sp ≠ 0 := fun e => hused.ne' (congrArg Fin.val e)
      exact .inr ⟨if_neg hne, _, exec_ret_of_pop_eq_some h, { Instr.Completes.refl _ s with
        pc := .popped ⟨s.sp.val - 1, by omega⟩
        sp := fun _ h => absurd rfl h }⟩
    · exact .inl ⟨.stackUnderflow, nofun, if_pos hempty, exec_ret_of_pop_eq_none h⟩
  | call nnn =>
    obtain ⟨hfree, h⟩ | ⟨hfull, h⟩ := s.push_cases (s.pc + 2)
    · have hne : s.sp ≠ 16 := fun e => hfree.ne (congrArg Fin.val e)
      exact .inr ⟨if_neg hne, _, exec_call_of_push_eq_some h nnn, { Instr.Completes.refl _ s with
        pc := .address nnn
        sp := fun h => absurd rfl (h nnn)
        stack := by
          intro k
          by_cases hk : k.val = s.sp.val
          · exact .inr ⟨⟨nnn, rfl⟩, hk, by simp [hk]⟩
          · exact .inl (by simp [Ne.symm hk]) }⟩
    · exact .inl ⟨.stackOverflow, nofun, if_pos hfull, exec_call_of_push_eq_none h nnn⟩
  | jp nnn => exact .inr ⟨rfl, _, rfl, { Instr.Completes.refl _ s with pc := .address nnn }⟩
  | jpV0 nnn => exact .inr ⟨rfl, _, rfl, { Instr.Completes.refl _ s with pc := .indexed nnn }⟩
  | seImm | sneImm | seReg | sneReg | skp | sknp => exact .inr ⟨rfl, _, rfl, .skipIf _ s _⟩
  | ldImm | addImm | ldReg | orReg | andReg | xorReg | ldVxDt =>
    exact .inr ⟨rfl, _, rfl, .setReg s (by simp [Instr.writesReg]) _⟩
  | addReg | subReg | shr | subn | shl =>
    exact .inr ⟨rfl, _, rfl, .writeFlagged s (by simp [Instr.writesReg]) (by simp [Instr.writesReg]) _ _⟩
  | rnd x nn =>
    exact .inr ⟨rfl, _, rfl, { Instr.Completes.setReg s (i := .rnd x nn) (x := x) (by simp [Instr.writesReg]) _ with
      rndIn := fun h => absurd rfl (h x nn) }⟩
  | ldI nnn =>
    exact .inr ⟨rfl, _, rfl, { Instr.Completes.refl _ s with
      pc := .advance
      index := fun h _ _ => absurd rfl (h nnn) }⟩
  | addI x =>
    exact .inr ⟨rfl, _, rfl, { Instr.Completes.refl _ s with
      pc := .advance
      index := fun _ h _ => absurd rfl (h x) }⟩
  | ldF x =>
    exact .inr ⟨rfl, _, rfl, { Instr.Completes.refl _ s with
      pc := .advance
      index := fun _ _ h => absurd rfl (h x) }⟩
  | ldDtVx x =>
    exact .inr ⟨rfl, _, rfl, { Instr.Completes.refl _ s with
      pc := .advance
      dt := fun h => absurd rfl (h x) }⟩
  | ldStVx x =>
    exact .inr ⟨rfl, _, rfl, { Instr.Completes.refl _ s with
      pc := .advance
      st := fun h => absurd rfl (h x) }⟩
  | ldVxK x => exact .inr ⟨rfl, _, rfl, .pollForKey s x⟩
  | drw x y n =>
    obtain ⟨hok, h⟩ | ⟨hbad, h⟩ := withLoad_cases n.val s (s.drawSprite x y)
    · exact .inr ⟨hok, _, h, .drawSprite s x y n _⟩
    · exact .inl ⟨.dataAccessOutOfBounds, nofun, hbad, h⟩
  | loadRegs x =>
    obtain ⟨hok, h⟩ | ⟨hbad, h⟩ := withLoad_cases (x.val + 1) s fun bytes => (s.setRegsFrom 0 bytes).advance
    · exact .inr ⟨hok, _, h, .loadRegs s x⟩
    · exact .inl ⟨.dataAccessOutOfBounds, nofun, hbad, h⟩
  | ldB x =>
    have hlen : (decimalDigits (s.reg x)).length = Instr.storeLength (.ldB x) := rfl
    obtain ⟨hbad, h⟩ | ⟨hok, t, h, hc⟩ := Instr.withStore_completes hlen s
    · exact .inl ⟨.dataAccessOutOfBounds, nofun, hbad, h⟩
    · exact .inr ⟨hok, t, h, hc⟩
  | storeRegs x =>
    obtain ⟨hbad, h⟩ | ⟨hok, t, h, hc⟩ := Instr.withStore_completes (i := .storeRegs x) (s.regsUpTo_length x) s
    · exact .inl ⟨.dataAccessOutOfBounds, nofun, hbad, h⟩
    · exact .inr ⟨hok, t, h, hc⟩

end Sys2Proof
end

section
/-! PROOFS. Instructions over all states: every one answers a next state, errors are exact and precise, and the frame
(10_state.md R39, 60_exceptions.md R220, R226, 20_memory.md R58). -/

namespace Sys2Proof

open Sys2Proof.Machine

/-- On the condition of its row an instruction raises and does nothing else (R226). -/
theorem exec_of_raises {i : Instr} {s : State} {c : FaultCause} (hc : i.raises s = some c) :
    exec i s = .next (s.raise c) := by
  obtain ⟨c', -, hc', h⟩ | ⟨hnone, -⟩ := exec_cases i s
  · cases hc.symm.trans hc'
    exact h
  · cases hc.symm.trans hnone

/-- On no such condition it completes within its frame. -/
theorem exec_of_raises_eq_none {i : Instr} {s : State} (hnone : i.raises s = none) :
    ∃ t, exec i s = .next t ∧ i.Completes s t := by
  obtain ⟨c, -, hc, -⟩ | ⟨-, h⟩ := exec_cases i s
  · cases hnone.symm.trans hc
  · exact h

/-- Every instruction answers a next state, within its frame. -/
theorem exec_keeps (i : Instr) (s : State) : ∃ t, exec i s = .next t ∧ i.Keeps s t := by
  obtain ⟨c, -, -, h⟩ | ⟨-, t, h, hc⟩ := exec_cases i s
  · exact ⟨_, h, .raise i s c⟩
  · exact ⟨t, h, hc.toKeeps⟩

theorem Instr.Keeps.of_exec {i : Instr} {s t : State} (h : exec i s = .next t) : i.Keeps s t := by
  obtain ⟨t', h', hk⟩ := exec_keeps i s
  cases h.symm.trans h'
  exact hk

theorem Instr.Completes.of_exec {i : Instr} {s t : State} (hnone : i.raises s = none) (h : exec i s = .next t) :
    i.Completes s t := by
  obtain ⟨t', h', hc⟩ := exec_of_raises_eq_none hnone
  cases h.symm.trans h'
  exact hc

namespace Machine

/-- The data range check fails exactly past the last byte (20_memory.md R58). -/
theorem State.outOfRange_of_lt {s : State} {len : Nat} (hpos : 0 < len) (h : 0xFFF < s.i.toNat + len - 1) :
    s.outOfRange len = some .dataAccessOutOfBounds :=
  if_pos ⟨hpos, h⟩

theorem State.outOfRange_eq_none {s : State} {len : Nat} (h : len = 0 ∨ s.i.toNat + len ≤ 0x1000) :
    s.outOfRange len = none :=
  if_neg (by omega)

end Machine

end Sys2Proof

namespace Sys2Proof.Proofs.Frame

open Sys2Proof Sys2Proof.Machine

/-- Settles O16: the clauses are those of `Instr.Keeps`, and of `Instr.Completes` where nothing is raised. -/
theorem instructionFrame : Obligations.InstructionFrame := by
  intro i s t h
  have hk := Instr.Keeps.of_exec h
  have hc := fun hnone => Instr.Completes.of_exec (s := s) hnone h
  refine ⟨hk.reg, hk.index, ?_, hk.sp, hk.dt, hk.st, hk.display, hk.memory, ?_, ?_, hk.keys, hk.tone, hk.params,
    hk.slot, hk.keysIn, hk.phase, hk.rndIn⟩
  · intro k hcall
    obtain hsame | ⟨⟨nnn, rfl⟩, hsp, -⟩ := hk.stack k
    · exact hsame
    · exact hcall.elim (fun hne => absurd rfl (hne nnn)) (fun hne => absurd hsp hne)
  · intro hnone
    exact ⟨(hc hnone).faultCause, (hc hnone).faultAddr⟩
  · intro hnone
    exact (hc hnone).status

/-- Settles O17: the two outcomes of `exec_cases`, told apart by `Instr.raises`. -/
theorem faultsAreExactAndPrecise : Obligations.FaultsAreExactAndPrecise := by
  intro i s hs
  constructor
  · intro c hc
    exact exec_of_raises hc
  · intro hnone
    obtain ⟨t, h, hc⟩ := exec_of_raises_eq_none hnone
    exact ⟨t, h, hc.notHalted hs⟩

/-- Settles O18: each range past the bound is the condition of its instruction's row. -/
theorem dataBoundFault : Obligations.DataBoundFault := by
  intro s x y n
  refine ⟨?_, ?_, ?_, ?_⟩
  · intro hpos h
    exact exec_of_raises (State.outOfRange_of_lt hpos h)
  · intro h
    exact exec_of_raises (State.outOfRange_of_lt (len := 3) (by omega) (by omega))
  · intro h
    exact exec_of_raises (State.outOfRange_of_lt (len := x.val + 1) (by omega) (by omega))
  · intro h
    exact exec_of_raises (State.outOfRange_of_lt (len := x.val + 1) (by omega) (by omega))

end Sys2Proof.Proofs.Frame
end

section
/-! PROOFS. What one step can do, from the instruction's outcome and the scheduler's work around it
(45_timers_and_scheduler.md R194-R199). -/

namespace Sys2Proof.Machine

section BeginSlot

variable (s : State)

@[simp] theorem State.beginSlot_v : s.beginSlot.v = s.v := by rw [State.beginSlot_eq]
@[simp] theorem State.beginSlot_pc : s.beginSlot.pc = s.pc := by rw [State.beginSlot_eq]
@[simp] theorem State.beginSlot_i : s.beginSlot.i = s.i := by rw [State.beginSlot_eq]
@[simp] theorem State.beginSlot_stack : s.beginSlot.stack = s.stack := by rw [State.beginSlot_eq]
@[simp] theorem State.beginSlot_sp : s.beginSlot.sp = s.sp := by rw [State.beginSlot_eq]
@[simp] theorem State.beginSlot_dt : s.beginSlot.dt = s.dt := by rw [State.beginSlot_eq]
@[simp] theorem State.beginSlot_st : s.beginSlot.st = s.st := by rw [State.beginSlot_eq]
@[simp] theorem State.beginSlot_memory : s.beginSlot.memory = s.memory := by rw [State.beginSlot_eq]
@[simp] theorem State.beginSlot_display : s.beginSlot.display = s.display := by rw [State.beginSlot_eq]
@[simp] theorem State.beginSlot_status : s.beginSlot.status = s.status := by rw [State.beginSlot_eq]
@[simp] theorem State.beginSlot_faultCause : s.beginSlot.faultCause = s.faultCause := by rw [State.beginSlot_eq]
@[simp] theorem State.beginSlot_faultAddr : s.beginSlot.faultAddr = s.faultAddr := by rw [State.beginSlot_eq]
@[simp] theorem State.beginSlot_tone : s.beginSlot.tone = s.tone := by rw [State.beginSlot_eq]
@[simp] theorem State.beginSlot_params : s.beginSlot.params = s.params := by rw [State.beginSlot_eq]
@[simp] theorem State.beginSlot_slot : s.beginSlot.slot = s.slot := by rw [State.beginSlot_eq]
@[simp] theorem State.beginSlot_rndIn : s.beginSlot.rndIn = s.rndIn := by rw [State.beginSlot_eq]

/-- The slot sees the latch loaded at the start of the tick. -/
theorem State.beginSlot_of_slot_eq_zero {s : State} (h : s.slot = 0) : s.beginSlot = s.pollKeys := if_pos h

theorem State.beginSlot_of_slot_ne_zero {s : State} (h : s.slot ≠ 0) : s.beginSlot = s := if_neg h

end BeginSlot

section EndSlot

variable (s : State)

@[simp] theorem State.endSlot_v : s.endSlot.v = s.v := by rw [State.endSlot_eq]
@[simp] theorem State.endSlot_pc : s.endSlot.pc = s.pc := by rw [State.endSlot_eq]
@[simp] theorem State.endSlot_i : s.endSlot.i = s.i := by rw [State.endSlot_eq]
@[simp] theorem State.endSlot_stack : s.endSlot.stack = s.stack := by rw [State.endSlot_eq]
@[simp] theorem State.endSlot_sp : s.endSlot.sp = s.sp := by rw [State.endSlot_eq]
@[simp] theorem State.endSlot_memory : s.endSlot.memory = s.memory := by rw [State.endSlot_eq]
@[simp] theorem State.endSlot_display : s.endSlot.display = s.display := by rw [State.endSlot_eq]
@[simp] theorem State.endSlot_status : s.endSlot.status = s.status := by rw [State.endSlot_eq]
@[simp] theorem State.endSlot_faultCause : s.endSlot.faultCause = s.faultCause := by rw [State.endSlot_eq]
@[simp] theorem State.endSlot_faultAddr : s.endSlot.faultAddr = s.faultAddr := by rw [State.endSlot_eq]
@[simp] theorem State.endSlot_keys : s.endSlot.keys = s.keys := by rw [State.endSlot_eq]
@[simp] theorem State.endSlot_params : s.endSlot.params = s.params := by rw [State.endSlot_eq]
@[simp] theorem State.endSlot_keysIn : s.endSlot.keysIn = s.keysIn := by rw [State.endSlot_eq]
@[simp] theorem State.endSlot_rndIn : s.endSlot.rndIn = s.rndIn := by rw [State.endSlot_eq]
@[simp] theorem State.endSlot_phase : s.endSlot.phase = s.phase := by rw [State.endSlot_eq]

variable {s}

theorem State.endSlot_of_halted (h : s.status = .halted) : s.endSlot = s := if_pos h

theorem State.endSlot_of_lt (h : s.status ≠ .halted) (hlt : s.slot + 1 < s.params.ipt) :
    s.endSlot = { s with slot := s.slot + 1 } := by
  simp [State.endSlot, h, hlt]

theorem State.endSlot_of_last (h : s.status ≠ .halted) (hlast : ¬ s.slot + 1 < s.params.ipt) :
    s.endSlot = s.endTick := by
  simp [State.endSlot, h, hlast]

end EndSlot


/-! The instruction at `pc`. -/

section Current

variable {s t : State}

theorem State.current_eq_some_iff {i : Instr} :
    s.current = some i ↔ ∃ w, s.memory.fetch s.pc = some w ∧ decodeWord w = .ok i := by
  unfold State.current
  cases s.memory.fetch s.pc with
  | none => simp
  | some w => cases hd : decodeWord w <;> simp [hd]

theorem State.current_eq_none_of_decode {w : Word} {e : DecodeReject} (hf : s.memory.fetch s.pc = some w)
    (hd : decodeWord w = .error e) : s.current = none := by
  simp [State.current, hf, hd]

theorem State.pc_le_of_current_eq_some {i : Instr} (h : s.current = some i) : s.pc.toNat ≤ 0xFFE := by
  obtain ⟨w, hf, -⟩ := State.current_eq_some_iff.1 h
  exact (Memory.fetch_eq_some.1 hf).1

/-- The invariant's wait clause, by the instruction at `pc` (10_state.md R40). -/
theorem State.atKeyWait_iff : s.atKeyWait = true ↔ ∃ x, s.current = some (.ldVxK x) := by
  unfold State.atKeyWait State.current
  cases s.memory.fetch s.pc with
  | none => simp
  | some w => cases hd : decodeWord w with
    | error e => simp [hd]
    | ok i => cases i <;> simp [hd]

theorem State.current_congr (hmem : t.memory = s.memory) (hpc : t.pc = s.pc) : t.current = s.current := by
  simp [State.current, hmem, hpc]

@[simp] theorem State.beginSlot_current : s.beginSlot.current = s.current :=
  State.current_congr (State.beginSlot_memory s) (State.beginSlot_pc s)

end Current

/-! Slots and steps. -/

/-- How a slot that does not halt the machine brings `s` to `u`: a tick without slots, an unrecognised word, or the
instruction at `pc` (R194, R196). -/
inductive SlotDone (s u : State) : Prop
  | noSlots (hipt : s.params.ipt = 0) (hu : u = s.pollKeys)
  | unrecognised (hipt : s.params.ipt ≠ 0) (hpc : s.pc.toNat ≤ 0xFFE) (hcur : s.current = none)
      (hu : u = s.beginSlot.advance)
  | instruction (i : Instr) (hipt : s.params.ipt ≠ 0) (hpc : s.pc.toNat ≤ 0xFFE) (hcur : s.current = some i)
      (hexec : exec i s.beginSlot = .next u) (hdone : i.Completes s.beginSlot u)

/-- A slot runs the instruction at `pc`. -/
theorem slotStep_of_current {s : State} {i : Instr} (hs : s.status ≠ .halted) (hcur : s.current = some i) :
    slotStep s = exec i s := by
  obtain ⟨w, hf, hd⟩ := State.current_eq_some_iff.1 hcur
  simp only [slotStep, hs, hf, hd, if_false]

theorem slotStep_of_decode_error {s : State} {w : Word} {e : DecodeReject} (hs : s.status ≠ .halted)
    (hf : s.memory.fetch s.pc = some w) (hd : decodeWord w = .error e) : slotStep s = .next s.advance := by
  simp only [slotStep, hs, hf, hd, if_false]

theorem step_of_halted {s : State} (hs : s.status = .halted) : step s = .next s := by
  simp [step, schedulerStep, hs]

/-- With IPT = 0 a step is a whole tick (R196). -/
theorem step_of_noSlots {s : State} (hs : s.status ≠ .halted) (hipt : s.params.ipt = 0) :
    step s = .next s.pollKeys.endTick := by
  simp [step, schedulerStep, hs, hipt]

theorem step_of_slotStep {s u : State} (hs : s.status ≠ .halted) (hipt : s.params.ipt ≠ 0)
    (hu : slotStep s.beginSlot = .next u) : step s = .next u.endSlot := by
  simp [step, schedulerStep, hs, hipt, hu]

/-- A step runs the instruction at `pc` between the scheduler's own work. -/
theorem step_of_exec {s u : State} {i : Instr} (hs : s.status ≠ .halted) (hipt : s.params.ipt ≠ 0)
    (hcur : s.current = some i) (hu : exec i s.beginSlot = .next u) : step s = .next u.endSlot := by
  apply step_of_slotStep hs hipt
  rw [slotStep_of_current (by simpa using hs) (by simpa using hcur), hu]

/-- What a step of a machine that is not halted can do: raise with nothing after it, or end a slot that leaves the
machine running or waiting. -/
theorem step_outcomes {s : State} (hs : s.status ≠ .halted) :
    (∃ c, c ≠ .none ∧ step s = .next (s.beginSlot.raise c)) ∨
    (∃ u, SlotDone s u ∧ u.status ≠ .halted ∧ step s = .next u.endSlot) := by
  by_cases hipt : s.params.ipt = 0
  · exact .inr ⟨_, .noSlots hipt rfl, hs, by
      rw [step_of_noSlots hs hipt, State.endSlot_of_last (s := s.pollKeys) hs (by simp [hipt])]⟩
  · have hb : s.beginSlot.status ≠ .halted := by simpa using hs
    have raised (c : FaultCause) (h : slotStep s.beginSlot = .next (s.beginSlot.raise c)) :
        step s = .next (s.beginSlot.raise c) := by
      rw [step_of_slotStep hs hipt h, State.endSlot_of_halted rfl]
    obtain ⟨hh, -⟩ | ⟨-, -, h⟩ | ⟨w, i, -, hf, hd, h⟩ | ⟨w, e, -, hf, hd, h⟩ := slotStep_cases s.beginSlot
    · exact absurd hh hb
    · exact .inl ⟨.fetchOutOfBounds, nofun, raised _ h⟩
    · have hcur : s.current = some i := by
        rw [← State.beginSlot_current]
        exact State.current_eq_some_iff.2 ⟨w, hf, hd⟩
      obtain ⟨c, hc, -, hx⟩ | ⟨-, u, hx, hdone⟩ := exec_cases i s.beginSlot
      · exact .inl ⟨c, hc, raised c (h.trans hx)⟩
      · exact .inr ⟨u, .instruction i hipt (State.pc_le_of_current_eq_some hcur) hcur hx hdone, hdone.notHalted hb,
          step_of_slotStep hs hipt (h.trans hx)⟩
    · have hcur : s.current = none := by
        rw [← State.beginSlot_current]
        exact State.current_eq_none_of_decode hf hd
      have hpc : s.pc.toNat ≤ 0xFFE := by simpa using (Memory.fetch_eq_some.1 hf).1
      exact .inr ⟨_, .unrecognised hipt hpc hcur rfl, hb, step_of_slotStep hs hipt h⟩

/-- A step of a machine that is not halted, by its answer. -/
theorem step_next_cases {s t : State} (hs : s.status ≠ .halted) (h : step s = .next t) :
    (∃ c, c ≠ .none ∧ t = s.beginSlot.raise c) ∨
    (∃ u, SlotDone s u ∧ u.status ≠ .halted ∧ t = u.endSlot) := by
  obtain ⟨c, hc, hstep⟩ | ⟨u, hu, hns, hstep⟩ := step_outcomes hs
  · cases h.symm.trans hstep
    exact .inl ⟨c, hc, rfl⟩
  · cases h.symm.trans hstep
    exact .inr ⟨u, hu, hns, rfl⟩

theorem step_next (s : State) : ∃ t, step s = .next t := by
  by_cases hs : s.status = .halted
  · exact ⟨s, step_of_halted hs⟩
  · obtain ⟨c, -, h⟩ | ⟨u, -, -, h⟩ := step_outcomes hs <;> exact ⟨_, h⟩

end Sys2Proof.Machine
end

section
/-! PROOFS. The invariant of 10_state.md R40, kept by every step and met by the reset state. -/

namespace Sys2Proof.Machine

/-- Every target of an instruction at a `pc` that fetches is within the invariant's bound: an address and a byte at
most (R40). -/
theorem pc_le_of_pcTarget {s : State} {w : Word} (hpc : s.pc.toNat ≤ 0xFFE)
    (hstack : ∀ k : Fin 16, s.stack[k].toNat ≤ 0x1000) (h : PcTarget s w) : w.toNat ≤ 0x10FE := by
  cases h with
  | stay => omega
  | advance => bv_omega
  | skip => bv_omega
  | address nnn =>
    have := nnn.isLt
    rw [addrOperand_eq_ofNat, BitVec.toNat_ofNat]
    omega
  | indexed nnn =>
    have := nnn.isLt
    have := (s.reg 0).isLt
    simp only [addrOperand, State.regWord, BitVec.toNat_add, BitVec.toNat_setWidth]
    omega
  | popped k =>
    have := hstack k
    omega

/-- Fx0A waits exactly where it is (R173). -/
theorem State.pollForKey_eq_of_waiting {s : State} {x : RegNum} (h : (s.pollForKey x).status = .awaitingKey) :
    s.pollForKey x = { s with status := .awaitingKey } := by
  unfold State.pollForKey at h ⊢
  cases hk : lowestKey s.keys with
  | some k => simp [hk] at h
  | none => rfl

namespace State.Inv

variable {s u : State}

/-- A running machine has no cause recorded. -/
theorem faultCause_eq_none (h : s.Inv) (hs : s.status ≠ .halted) : s.faultCause = .none := by
  by_contra hne
  exact hs (h.haltedIffCause.2 hne)

/-- A waiting machine has an Fx0A at `pc`. -/
theorem current_of_waiting (h : s.Inv) (hs : s.status = .awaitingKey) : ∃ x, s.current = some (.ldVxK x) :=
  State.atKeyWait_iff.1 (h.waitingAtKeyWait hs).2

/-- With no slot in a tick the position is its start. -/
theorem slot_eq_zero (h : s.Inv) (hipt : s.params.ipt = 0) : s.slot = 0 := by
  have := h.slotBound
  omega

theorem beginSlot_phase (h : s.Inv) : s.beginSlot.phase = .ticking := by
  by_cases h0 : s.slot = 0
  · rw [State.beginSlot_of_slot_eq_zero h0]
    rfl
  · rw [State.beginSlot_of_slot_ne_zero h0]
    exact h.slotTicking h0

protected theorem pollKeys (h : s.Inv) : s.pollKeys.Inv :=
  { h with slotTicking := fun _ => rfl }

protected theorem beginSlot (h : s.Inv) : s.beginSlot.Inv := by
  by_cases h0 : s.slot = 0
  · rw [State.beginSlot_of_slot_eq_zero h0]
    exact h.pollKeys
  · rw [State.beginSlot_of_slot_ne_zero h0]
    exact h

/-- An error records its cause with the halt. -/
protected theorem raise (h : s.Inv) {c : FaultCause} (hc : c ≠ .none) : (s.raise c).Inv :=
  { h with
    haltedIffCause := ⟨fun _ => hc, fun _ => rfl⟩
    waitingAtKeyWait := nofun }

/-- The end of a tick is back at its start. -/
protected theorem endTick (h : s.Inv) : s.endTick.Inv :=
  { h with
    slotBound := .inl rfl
    slotTicking := fun h0 => absurd rfl h0 }

protected theorem endSlot (h : s.Inv) (hphase : s.phase = .ticking) : s.endSlot.Inv := by
  by_cases hs : s.status = .halted
  · rw [State.endSlot_of_halted hs]
    exact h
  · by_cases hlt : s.slot + 1 < s.params.ipt
    · rw [State.endSlot_of_lt hs hlt]
      exact { h with
        slotBound := .inr hlt
        slotTicking := fun _ => hphase }
    · rw [State.endSlot_of_last hs hlt]
      exact h.endTick

/-- A machine at an unrecognised word is not waiting, and the advance stays within the bound. -/
protected theorem advance (h : s.Inv) (hpc : s.pc.toNat ≤ 0xFFE) (hcur : s.current = none) : s.advance.Inv :=
  { h with
    pcBound := pc_le_of_pcTarget hpc h.stackBound .advance
    waitingAtKeyWait := by
      intro hw
      obtain ⟨x, hx⟩ := h.current_of_waiting hw
      cases hcur.symm.trans hx }

/-- An instruction that completes leaves the machine waiting only where Fx0A has found no key. -/
theorem waiting_of_exec (h : s.Inv) {i : Instr} (hcur : s.current = some i) (hexec : exec i s = .next u)
    (hdone : i.Completes s u) (hw : u.status = .awaitingKey) :
    ∃ x, i = .ldVxK x ∧ u = { s with status := .awaitingKey } := by
  by_cases hi : ∃ x, i = .ldVxK x
  · obtain ⟨x, rfl⟩ := hi
    obtain rfl : s.pollForKey x = u := by
      cases hexec
      rfl
    exact ⟨x, rfl, State.pollForKey_eq_of_waiting hw⟩
  · have hne : ∀ x, i ≠ .ldVxK x := fun x e => hi ⟨x, e⟩
    obtain ⟨x, hx⟩ := h.current_of_waiting ((hdone.status hne).symm.trans hw)
    exact absurd (Option.some.inj (hcur.symm.trans hx)) (hne x)

/-- An instruction that completes keeps the invariant. -/
protected theorem completes (h : s.Inv) (hs : s.status ≠ .halted) {i : Instr} (hpc : s.pc.toNat ≤ 0xFFE)
    (hcur : s.current = some i) (hexec : exec i s = .next u) (hdone : i.Completes s u) : u.Inv where
  memoryWf := hdone.memoryWf h.memoryWf
  pcBound := pc_le_of_pcTarget hpc h.stackBound hdone.pc
  stackBound := by
    intro k
    obtain hsame | ⟨-, -, hpush⟩ := hdone.stack k
    · rw [hsame]
      exact h.stackBound k
    · rw [hpush]
      bv_omega
  haltedIffCause := by
    rw [hdone.faultCause, h.faultCause_eq_none hs]
    simpa using hdone.notHalted hs
  waitingAtKeyWait := by
    intro hw
    obtain ⟨x, rfl, rfl⟩ := h.waiting_of_exec hcur hexec hdone hw
    exact ⟨hpc, State.atKeyWait_iff.2 ⟨x, hcur⟩⟩
  slotBound := by
    rw [hdone.slot, hdone.params]
    exact h.slotBound
  slotTicking := by
    rw [hdone.slot, hdone.phase]
    exact h.slotTicking

/-- A slot that does not halt the machine keeps the invariant, and a tick has begun. -/
theorem slotDone (h : s.Inv) (hs : s.status ≠ .halted) (hdone : SlotDone s u) : u.Inv ∧ u.phase = .ticking := by
  have hb := h.beginSlot
  have hphase := h.beginSlot_phase
  cases hdone with
  | noSlots hipt hu =>
    subst hu
    exact ⟨h.pollKeys, rfl⟩
  | unrecognised hipt hpc hcur hu =>
    subst hu
    exact ⟨hb.advance (by simpa using hpc) (by simpa using hcur), hphase⟩
  | instruction i hipt hpc hcur hexec hdone =>
    exact ⟨hb.completes (by simpa using hs) (by simpa using hpc) (by simpa using hcur) hexec hdone,
      hdone.phase.trans hphase⟩

/-- A step of a machine that is not halted keeps the invariant, and a tick has begun. -/
theorem step_of_not_halted {t : State} (h : s.Inv) (hs : s.status ≠ .halted) (ht : step s = .next t) :
    t.Inv ∧ t.phase = .ticking := by
  obtain ⟨c, hc, rfl⟩ | ⟨u, hdone, -, rfl⟩ := step_next_cases hs ht
  · exact ⟨h.beginSlot.raise hc, h.beginSlot_phase⟩
  · obtain ⟨hu, hphase⟩ := h.slotDone hs hdone
    exact ⟨hu.endSlot hphase, by simpa using hphase⟩

/-- Every step keeps the invariant. -/
protected theorem step {t : State} (h : s.Inv) (ht : step s = .next t) : t.Inv := by
  by_cases hs : s.status = .halted
  · cases (step_of_halted hs).symm.trans ht
    exact h
  · exact (h.step_of_not_halted hs ht).1

protected theorem reset : State.reset.Inv where
  memoryWf := Memory.wf_reset
  pcBound := by decide
  stackBound := by
    intro k
    simp [State.reset]
  haltedIffCause := by decide
  waitingAtKeyWait := nofun
  slotBound := .inl rfl
  slotTicking := fun h => absurd rfl h

end State.Inv

end Sys2Proof.Machine

namespace Sys2Proof.Proofs.Invariant

open Sys2Proof Sys2Proof.Machine

/-- Settles O14: what comes before a slot, the slot and what comes after it each keep the invariant. -/
theorem stepKeepsInvariant : Obligations.StepKeepsInvariant := by
  intro s t h ht
  exact h.step ht

/-- Settles O15. -/
theorem resetMeetsInvariant : Obligations.ResetMeetsInvariant := by
  exact State.Inv.reset

/-- Settles O57: the port refuses by its phase, and a step that keeps the invariant leaves the phase ticking. -/
theorem loadOnlyBeforeTheFirstTick : Obligations.LoadOnlyBeforeTheFirstTick := by
  constructor
  · intro s bytes offset hphase
    exact if_pos hphase
  · intro s t h hs ht
    exact (h.step_of_not_halted hs ht).2

end Sys2Proof.Proofs.Invariant
end

section
/-! PROOFS. Slots, ticks and halts over a whole step: who changes memory and display, the timers, the tone and the key
latch, the presentation, and what a halted or waiting machine does (45_timers_and_scheduler.md R192-R200). -/

namespace Sys2Proof

open Sys2Proof.Machine

/-- Only Fx33 and Fx55 store (R39). -/
theorem Instr.stores_cases {i : Instr} (h : 0 < i.storeLength) :
    (∃ x, i = .ldB x ∧ i.storeLength = 3) ∨ (∃ x, i = .storeRegs x ∧ i.storeLength = x.val + 1) := by
  cases i with
  | ldB x => exact .inl ⟨x, rfl, rfl⟩
  | storeRegs x => exact .inr ⟨x, rfl, rfl⟩
  | _ => exact absurd h (Nat.lt_irrefl 0)

/-- Two bytes that decode to an instruction are its word's (R54). -/
theorem decodeWord_of_decodeBytes {high low : Byte} {i : Instr} (h : decodeBytes [high, low] = .ok (i, [])) :
    decodeWord (wordOfBytes high low) = .ok i := by
  cases hd : decodeWord (wordOfBytes high low) with
  | ok j => simpa [decodeBytes, hd] using h
  | error e => simp [decodeBytes, hd] at h

namespace Machine

/-- Fx0A with no key down waits where it is (R173). -/
theorem exec_ldVxK_of_no_key {s : State} (x : RegNum) (hkeys : s.keys = 0) :
    exec (.ldVxK x) s = .next { s with status := .awaitingKey } := by
  simp only [exec, execLdVxK, State.pollForKey, lowestKey_eq_none.2 hkeys]

section SlotDone

variable {s u : State}

theorem SlotDone.slot (h : SlotDone s u) : u.slot = s.slot := by
  cases h with
  | noSlots _ hu => rw [hu, State.pollKeys_slot]
  | unrecognised _ _ _ hu => rw [hu, State.advance_slot, State.beginSlot_slot]
  | instruction i _ _ _ _ hdone => rw [hdone.slot, State.beginSlot_slot]

theorem SlotDone.params (h : SlotDone s u) : u.params = s.params := by
  cases h with
  | noSlots _ hu => rw [hu, State.pollKeys_params]
  | unrecognised _ _ _ hu => rw [hu, State.advance_params, State.beginSlot_params]
  | instruction i _ _ _ _ hdone => rw [hdone.params, State.beginSlot_params]

theorem SlotDone.tone (h : SlotDone s u) : u.tone = s.tone := by
  cases h with
  | noSlots _ hu => rw [hu, State.pollKeys_tone]
  | unrecognised _ _ _ hu => rw [hu, State.advance_tone, State.beginSlot_tone]
  | instruction i _ _ _ _ hdone => rw [hdone.tone, State.beginSlot_tone]

theorem SlotDone.dt (h : SlotDone s u) (hne : ∀ x, s.current ≠ some (.ldDtVx x)) : u.dt = s.dt := by
  cases h with
  | noSlots _ hu => rw [hu, State.pollKeys_dt]
  | unrecognised _ _ _ hu => rw [hu, State.advance_dt, State.beginSlot_dt]
  | instruction i _ _ hcur _ hdone =>
    rw [hdone.dt (fun x e => hne x (e ▸ hcur)), State.beginSlot_dt]

theorem SlotDone.st (h : SlotDone s u) (hne : ∀ x, s.current ≠ some (.ldStVx x)) : u.st = s.st := by
  cases h with
  | noSlots _ hu => rw [hu, State.pollKeys_st]
  | unrecognised _ _ _ hu => rw [hu, State.advance_st, State.beginSlot_st]
  | instruction i _ _ hcur _ hdone =>
    rw [hdone.st (fun x e => hne x (e ▸ hcur)), State.beginSlot_st]

/-- The slot leaves the latch and its port as they stood when it began. -/
theorem SlotDone.keys (h : SlotDone s u) (hinv : s.Inv) :
    u.keys = s.beginSlot.keys ∧ u.keysIn = s.beginSlot.keysIn := by
  cases h with
  | noSlots hipt hu =>
    rw [hu, State.beginSlot_of_slot_eq_zero (hinv.slot_eq_zero hipt)]
    exact ⟨rfl, rfl⟩
  | unrecognised _ _ _ hu => rw [hu]; exact ⟨rfl, rfl⟩
  | instruction i _ _ _ _ hdone => exact ⟨hdone.keys, hdone.keysIn⟩

/-- A byte that reads differently after a slot lies where the instruction at `pc` stores. -/
theorem SlotDone.memory {a : Nat} (h : SlotDone s u) (hne : u.memory.read a ≠ s.memory.read a) :
    ∃ i, s.current = some i ∧ s.i.toNat ≤ a ∧ a < s.i.toNat + i.storeLength := by
  cases h with
  | noSlots _ hu => exact absurd (by rw [hu, State.pollKeys_memory]) hne
  | unrecognised _ _ _ hu => exact absurd (by rw [hu, State.advance_memory, State.beginSlot_memory]) hne
  | instruction i _ _ hcur _ hdone =>
    refine ⟨i, hcur, ?_⟩
    by_contra hout
    have hsame := hdone.memory a (by rwa [State.beginSlot_i])
    exact hne (by rw [hsame, State.beginSlot_memory])

/-- A display that differs after a slot is the work of 00E0 or Dxyn. -/
theorem SlotDone.display (h : SlotDone s u) (hne : u.display ≠ s.display) :
    s.current = some .cls ∨ ∃ x y n, s.current = some (.drw x y n) := by
  cases h with
  | noSlots _ hu => exact absurd (by rw [hu, State.pollKeys_display]) hne
  | unrecognised _ _ _ hu => exact absurd (by rw [hu, State.advance_display, State.beginSlot_display]) hne
  | instruction i _ _ hcur _ hdone =>
    by_contra hno
    have hcls : i ≠ .cls := fun e => hno (.inl (e ▸ hcur))
    have hdrw : ∀ x y n, i ≠ .drw x y n := fun x y n e => hno (.inr ⟨x, y, n, e ▸ hcur⟩)
    exact hne (by rw [hdone.display hcls hdrw, State.beginSlot_display])

end SlotDone

section EndSlot

variable {s : State} (hs : s.status ≠ .halted)

include hs

/-- The end of a slot that did not halt: the fields that steps (c) and (d) write. -/
theorem State.endSlot_dt : s.endSlot.dt = if s.slot + 1 < s.params.ipt then s.dt else countDown s.dt := by
  split_ifs with hlt
  · rw [State.endSlot_of_lt hs hlt]
  · rw [State.endSlot_of_last hs hlt]; rfl

theorem State.endSlot_st : s.endSlot.st = if s.slot + 1 < s.params.ipt then s.st else countDown s.st := by
  split_ifs with hlt
  · rw [State.endSlot_of_lt hs hlt]
  · rw [State.endSlot_of_last hs hlt]; rfl

theorem State.endSlot_tone :
    s.endSlot.tone = if s.slot + 1 < s.params.ipt then s.tone else decide (0 < s.endSlot.st.toNat) := by
  split_ifs with hlt
  · rw [State.endSlot_of_lt hs hlt]
  · rw [State.endSlot_of_last hs hlt]; rfl

theorem State.endSlot_slot : s.endSlot.slot = if s.slot + 1 < s.params.ipt then s.slot + 1 else 0 := by
  split_ifs with hlt
  · rw [State.endSlot_of_lt hs hlt]
  · rw [State.endSlot_of_last hs hlt]; rfl

end EndSlot

/-- The three answers of a step: the stutter of a halted machine, a raise with nothing after it, and a slot with its
end. -/
theorem step_answer_cases {s t : State} (h : step s = .next t) :
    (s.status = .halted ∧ t = s) ∨
    (s.status ≠ .halted ∧ ∃ c, c ≠ .none ∧ t = s.beginSlot.raise c) ∨
    (s.status ≠ .halted ∧ ∃ u, SlotDone s u ∧ u.status ≠ .halted ∧ t = u.endSlot) := by
  by_cases hs : s.status = .halted
  · cases (step_of_halted hs).symm.trans h
    exact .inl ⟨hs, rfl⟩
  · exact .inr ((step_next_cases hs h).imp (⟨hs, ·⟩) (⟨hs, ·⟩))

/-- A step that halts the machine is a raise. -/
theorem step_of_answer_halted {s t : State} (hs : s.status ≠ .halted) (ht : t.status = .halted)
    (h : step s = .next t) : ∃ c, c ≠ .none ∧ t = s.beginSlot.raise c := by
  obtain hraise | ⟨u, -, hu, rfl⟩ := step_next_cases hs h
  · exact hraise
  · exact absurd ((State.endSlot_status u).symm.trans ht) hu

/-- A step whose answer runs or waits is a slot and its end. -/
theorem step_of_answer_not_halted {s t : State} (ht : t.status ≠ .halted) (h : step s = .next t) :
    ∃ u, SlotDone s u ∧ u.status ≠ .halted ∧ t = u.endSlot := by
  obtain ⟨hs, rfl⟩ | ⟨-, c, -, rfl⟩ | ⟨-, hdone⟩ := step_answer_cases h
  · exact absurd hs ht
  · exact absurd rfl ht
  · exact hdone

/-- A halted machine stays as it is through any run. -/
theorem run_of_halted {s : State} (hs : s.status = .halted) (n : Nat) : core.run n s = .next s := by
  have hstep : core.step s = .next s := step_of_halted hs
  induction n with
  | zero => rfl
  | succ n ih => simp only [Host.Core.run, hstep, ih]

end Machine

end Sys2Proof

namespace Sys2Proof.Proofs.Scheduler

open Sys2Proof Sys2Proof.Machine

/-- Settles O10: `exec_keeps` and `step_next` give the answers. -/
theorem nothingIsRefused : Obligations.NothingIsRefused := by
  constructor
  · intro i s
    obtain ⟨t, h, -⟩ := exec_keeps i s
    exact ⟨t, h⟩
  · exact step_next

/-- Settles O11: each agent tests the status first, and a run of stutters ends halted. -/
theorem haltedIsAbsorbing : Obligations.HaltedIsAbsorbing := by
  intro s k n hs
  refine ⟨if_pos hs, step_of_halted hs, if_pos hs, ?_⟩
  rintro ⟨t, hrun, ht⟩
  cases (run_of_halted hs n).symm.trans hrun
  exact ht hs

/-- Settles O8: the decoded instruction is the one at `pc`, and the state it runs in is `beginSlot` written out. -/
theorem stepRunsDecodedInstruction : Obligations.StepRunsDecodedInstruction := by
  intro s i hs hipt hpc hd
  have hcur : s.current = some i :=
    State.current_eq_some_iff.2 ⟨_, s.memory.fetch_of_le hpc, decodeWord_of_decodeBytes hd⟩
  obtain ⟨u, hu, -⟩ := exec_keeps i s.beginSlot
  have hu' : exec i (if s.slot = 0 then { s with keys := s.nextKeys, keysIn := s.keysIn.advance, phase := .ticking }
      else s) = .next u := hu
  rw [step_of_exec hs hipt hcur hu, hu']
  rfl

/-- Settles O9. -/
theorem unrecognisedWordAdvances : Obligations.UnrecognisedWordAdvances := by
  intro s w e hs hf hd
  exact slotStep_of_decode_error hs hf hd

/-- Settles O13: the step is the whole tick of `step_of_noSlots`. -/
theorem noSlotsStillTicks : Obligations.NoSlotsStillTicks := by
  intro s hs hipt
  refine ⟨s.pollKeys.endTick, step_of_noSlots hs hipt, ?_⟩
  simp [State.endTick, countDown_toNat]

/-- Settles O19: a step that halts is a raise from the state in which the slot began. -/
theorem haltSkipsTheRestOfTheTick : Obligations.HaltSkipsTheRestOfTheTick := by
  intro s t hs h ht
  obtain ⟨c, hc, rfl⟩ := step_of_answer_halted hs ht h
  refine ⟨c, hc, ?_⟩
  by_cases h0 : s.slot = 0
  · rw [State.beginSlot_of_slot_eq_zero h0, if_pos h0]
    rfl
  · rw [State.beginSlot_of_slot_ne_zero h0, if_neg h0]
    rfl

/-- Settles O20: a stutter and a raise leave memory, and a slot changes only what its instruction stores. -/
theorem memoryChangesOnlyByStores : Obligations.MemoryChangesOnlyByStores := by
  intro s t a h hne
  obtain ⟨-, rfl⟩ | ⟨-, c, -, rfl⟩ | ⟨-, u, hdone, -, rfl⟩ := step_answer_cases h
  · exact absurd rfl hne
  · exact absurd (by rw [State.raise_memory, State.beginSlot_memory]) hne
  · obtain ⟨i, hcur, hlow, hhigh⟩ := hdone.memory (State.endSlot_memory u ▸ hne)
    obtain ⟨x, rfl, hlen⟩ | ⟨x, rfl, hlen⟩ := Instr.stores_cases (i := i) (by omega)
    · exact .inl ⟨x, hcur, hlow, by omega⟩
    · exact .inr ⟨x, hcur, hlow, by omega⟩

/-- Settles O21: a stutter and a raise leave the display, and so does every slot but one of 00E0 or Dxyn. -/
theorem displayChangesOnlyByClsAndDraw : Obligations.DisplayChangesOnlyByClsAndDraw := by
  intro s t h hne
  obtain ⟨-, rfl⟩ | ⟨-, c, -, rfl⟩ | ⟨-, u, hdone, -, rfl⟩ := step_answer_cases h
  · exact absurd rfl hne
  · exact absurd (by rw [State.raise_display, State.beginSlot_display]) hne
  · exact hdone.display (State.endSlot_display u ▸ hne)

/-- Settles O29: the slot runs the jump, which sets `pc` to itself, and the end of the slot leaves the program's
fields. -/
theorem selfJumpStays : Obligations.SelfJumpStays := by
  intro s nnn hs hcur hself
  have hns : s.status ≠ .halted := by simp [hs]
  by_cases hipt : s.params.ipt = 0
  · refine ⟨s.pollKeys.endTick, step_of_noSlots hns hipt, ?_⟩
    simp [sameMemory, State.endTick, hs]
  · have htarget : addrOperand nnn = s.pc := by
      rw [addrOperand_eq_ofNat, hself, BitVec.ofNat_toNat, BitVec.setWidth_eq]
    refine ⟨_, step_of_exec hns hipt hcur rfl, ?_⟩
    simp [sameMemory, htarget, hs]

/-- Settles O49: the slot polls Fx0A, which waits while the latch is 0, and the end of the slot leaves the program's
fields. -/
theorem waitingOnlyPolls : Obligations.WaitingOnlyPolls := by
  intro s hinv hwait hkeys
  have hns : s.status ≠ .halted := by simp [hwait]
  by_cases hipt : s.params.ipt = 0
  · rw [State.beginSlot_of_slot_eq_zero (hinv.slot_eq_zero hipt)] at hkeys
    rw [State.pollKeys_keys] at hkeys
    refine ⟨s.pollKeys.endTick, step_of_noSlots hns hipt, ?_⟩
    simp [sameMemory, State.endTick, hwait, hkeys]
  · obtain ⟨x, hcur⟩ := hinv.current_of_waiting hwait
    have hpoll : exec (.ldVxK x) s.beginSlot = .next { s.beginSlot with status := .awaitingKey } :=
      exec_ldVxK_of_no_key x hkeys
    refine ⟨_, step_of_exec hns hipt hcur hpoll, ?_⟩
    simp [sameMemory, hkeys]

/-- Settles O50: the timers of the state at the end of the slot, which the instruction has left unless it writes them,
count when the slot is the last. -/
theorem timersCountOncePerTick : Obligations.TimersCountOncePerTick := by
  constructor
  · intro s
    exact ⟨_, rfl, countDown_toNat s.dt, countDown_toNat s.st, rfl⟩
  · intro s t h
    constructor
    · intro ht
      obtain ⟨-, rfl⟩ | ⟨-, c, -, rfl⟩ | ⟨-, u, -, hu, rfl⟩ := step_answer_cases h
      · exact ⟨rfl, rfl⟩
      · simp
      · exact absurd ((State.endSlot_status u).symm.trans ht) hu
    · intro ht
      obtain ⟨u, hdone, hu, rfl⟩ := step_of_answer_not_halted ht h
      rw [State.endSlot_dt hu, State.endSlot_st hu, hdone.slot, hdone.params]
      constructor
      · intro hne
        rw [hdone.dt hne, apply_ite BitVec.toNat, countDown_toNat]
      · intro hne
        rw [hdone.st hne, apply_ite BitVec.toNat, countDown_toNat]

/-- Settles O51: no slot moves the latch, and the end of a tick's last slot loads it from ST. -/
theorem toneIsLatchedAtStepD : Obligations.ToneIsLatchedAtStepD := by
  intro s t hs h
  obtain ⟨c, -, rfl⟩ | ⟨u, hdone, hu, rfl⟩ := step_next_cases hs h
  · exact ⟨rfl, fun _ => by simp, fun _ ht => absurd rfl ht⟩
  · have htone := State.endSlot_tone hu
    rw [hdone.slot, hdone.params, hdone.tone] at htone
    refine ⟨rfl, ?_, ?_⟩
    · rintro (hlt | ht)
      · rw [htone, if_pos hlt]
      · exact absurd ((State.endSlot_status u).symm.trans ht) hu
    · intro hlast _
      rw [htone, if_neg hlast]

/-- Settles O52: the latch and its port stand after a step as they stood when the slot began. -/
theorem keysLatchedOncePerTick : Obligations.KeysLatchedOncePerTick := by
  intro s t hinv hs h
  have hkept : t.keys = s.beginSlot.keys ∧ t.keysIn = s.beginSlot.keysIn := by
    obtain ⟨c, -, rfl⟩ | ⟨u, hdone, -, rfl⟩ := step_next_cases hs h
    · exact ⟨rfl, rfl⟩
    · simpa using hdone.keys hinv
  refine ⟨?_, ?_, ?_⟩
  · intro h0
    rwa [State.beginSlot_of_slot_eq_zero h0] at hkept
  · intro h0
    rwa [State.beginSlot_of_slot_ne_zero h0] at hkept
  · intro k rest hpending
    simp [State.nextKeys, InPort.sample, hpending]

/-- Settles O53: only the end of a tick's last slot leaves position 0 on a machine that has not halted. -/
theorem presentedOncePerTick : Obligations.PresentedOncePerTick := by
  intro s t hinv hs h
  have hphase := (hinv.step_of_not_halted hs h).2
  obtain ⟨c, -, rfl⟩ | ⟨u, hdone, hu, rfl⟩ := step_next_cases hs h
  · simp [State.presented]
  · have hslot := State.endSlot_slot hu
    rw [hdone.slot, hdone.params] at hslot
    have hu' : u.endSlot.status ≠ .halted := by simpa using hu
    by_cases hlt : s.slot + 1 < s.params.ipt
    · rw [if_pos (.inl hlt), State.presented, hslot, if_pos hlt, if_neg (by simp)]
    · rw [if_neg (by simp [hlt, hu]), State.presented, hslot, if_neg hlt, if_pos ⟨rfl, hphase, hu'⟩]
      rfl

end Sys2Proof.Proofs.Scheduler
end

section
/-! PROOFS. The fields no instruction reads: the sound timer and the tone latch, and the MODEL's own position, port and
phase; and from the latter, that IPT steps are one FrameTick (10_state.md R28, R33, 45_timers_and_scheduler.md R195). -/

namespace Sys2Proof.Machine

/-- `s` with the values of `o` in the fields no instruction reads. -/
def State.withUnread (s o : State) : State :=
  { s with st := o.st, tone := o.tone, slot := o.slot, keysIn := o.keysIn, phase := o.phase }

section WithUnread

variable (s o : State)

theorem State.push_withUnread (ret : Word) :
    (s.withUnread o).push ret = (s.push ret).map fun t => t.withUnread o := by
  by_cases h : s.sp.val < 16 <;> simp [State.push, State.withUnread, h]

theorem State.pop_withUnread :
    (s.withUnread o).pop = s.pop.map fun p => (p.1, p.2.withUnread o) := by
  by_cases h : 0 < s.sp.val <;> simp [State.pop, State.withUnread, h]

theorem State.pollForKey_withUnread (x : RegNum) :
    (s.withUnread o).pollForKey x = (s.pollForKey x).withUnread o := by
  unfold State.pollForKey
  change (match lowestKey s.keys with | some k => _ | none => _) = _
  cases lowestKey s.keys <;> rfl

theorem State.setRegsFrom_withUnread (r : Nat) (bytes : List Byte) :
    (s.withUnread o).setRegsFrom r bytes = (s.setRegsFrom r bytes).withUnread o := by
  induction bytes generalizing s r with
  | nil => rfl
  | cons b rest ih =>
    simp only [State.setRegsFrom]
    split
    · exact ih (s.setReg _ b) _
    · rfl

/-- A guarded read commutes with the change when what it goes on with does. -/
theorem withLoad_withUnread (len : Nat) (k : State → List Byte → State)
    (hk : ∀ bytes, k (s.withUnread o) bytes = (k s bytes).withUnread o) :
    ∃ t, withLoad len s (k s) = .next t ∧
      withLoad len (s.withUnread o) (k (s.withUnread o)) = .next (t.withUnread o) := by
  refine ⟨_, withLoad_eq len s (k s), ?_⟩
  rw [withLoad_eq, hk, apply_ite (fun t : State => t.withUnread o)]
  rfl

theorem withStore_withUnread (bytes : List Byte) :
    ∃ t, withStore bytes s = .next t ∧ withStore bytes (s.withUnread o) = .next (t.withUnread o) := by
  obtain ⟨hok, m, hm, h⟩ | ⟨hbad, h⟩ := withStore_cases bytes s
  · refine ⟨_, h, ?_⟩
    simp only [withStore, State.withUnread, hok, hm, if_true]
    rfl
  · refine ⟨_, h, ?_⟩
    simp only [withStore, State.withUnread, hbad, Bool.false_eq_true, if_false]
    rfl

end WithUnread

/-- Every instruction but Fx18 does the same whatever the unread fields hold, and leaves them. -/
theorem exec_withUnread_of_ne {i : Instr} (hi : ∀ x, i ≠ .ldStVx x) (s o : State) :
    ∃ t, exec i s = .next t ∧ exec i (s.withUnread o) = .next (t.withUnread o) := by
  cases i with
  | ldStVx x => exact absurd rfl (hi x)
  | ret =>
    have hpop := s.pop_withUnread o
    cases h : s.pop with
    | none =>
      rw [h] at hpop
      exact ⟨_, exec_ret_of_pop_eq_none h, exec_ret_of_pop_eq_none hpop⟩
    | some p =>
      rw [h] at hpop
      exact ⟨_, exec_ret_of_pop_eq_some h, exec_ret_of_pop_eq_some hpop⟩
  | call nnn =>
    have hpush := s.push_withUnread o (s.pc + 2)
    cases h : s.push (s.pc + 2) with
    | none =>
      rw [h] at hpush
      exact ⟨_, exec_call_of_push_eq_none h nnn, exec_call_of_push_eq_none hpush nnn⟩
    | some t =>
      rw [h] at hpush
      exact ⟨_, exec_call_of_push_eq_some h nnn, exec_call_of_push_eq_some hpush nnn⟩
  | ldVxK x => exact ⟨_, rfl, congrArg Host.Outcome.next (s.pollForKey_withUnread o x)⟩
  | drw x y n => exact withLoad_withUnread s o n.val (fun s bytes => s.drawSprite x y bytes) fun _ => rfl
  | loadRegs x =>
    exact withLoad_withUnread s o (x.val + 1) (fun s bytes => (s.setRegsFrom 0 bytes).advance) fun bytes =>
      congrArg State.advance (s.setRegsFrom_withUnread o 0 bytes)
  | ldB x => exact withStore_withUnread s o (decimalDigits (s.reg x))
  | storeRegs x => exact withStore_withUnread s o (s.regsUpTo x)
  | _ => exact ⟨_, rfl, rfl⟩

/-- Every instruction does the same whatever the unread fields hold, and leaves them, but for Fx18 on ST. -/
theorem exec_withUnread (i : Instr) (s o : State) :
    ∃ t, exec i s = .next t ∧
      exec i (s.withUnread o) = .next (t.withUnread { o with st := if (∃ x, i = .ldStVx x) then t.st else o.st }) := by
  by_cases hi : ∃ x, i = .ldStVx x
  · obtain ⟨x, rfl⟩ := hi
    refine ⟨_, rfl, ?_⟩
    have hx : ∃ y, Instr.ldStVx x = .ldStVx y := ⟨x, rfl⟩
    rw [if_pos hx]
    rfl
  · simp only [if_neg hi]
    exact exec_withUnread_of_ne (fun x e => hi ⟨x, e⟩) s o

/-! The MODEL's own fields: the position, the port and the phase. -/

/-- `s` with other values in the position, the port and the phase. -/
def State.withOwn (s : State) (n : Nat) (k : InPort 16) (p : BootPhase) : State :=
  { s with slot := n, keysIn := k, phase := p }

theorem State.withOwn_self (s : State) : s.withOwn s.slot s.keysIn s.phase = s := rfl

/-- No instruction reads or writes the MODEL's own fields. -/
theorem exec_withOwn (i : Instr) (s : State) (n : Nat) (k : InPort 16) (p : BootPhase) :
    ∃ t, exec i s = .next t ∧ exec i (s.withOwn n k p) = .next (t.withOwn n k p) := by
  obtain ⟨t, ht, ht'⟩ := exec_withUnread i s (s.withOwn n k p)
  have hkeeps := Instr.Keeps.of_exec ht
  refine ⟨t, ht, ht'.trans (congrArg Host.Outcome.next ?_)⟩
  have hst : (if (∃ x, i = .ldStVx x) then t.st else s.st) = t.st := by
    split_ifs with hi
    · rfl
    · exact (hkeeps.st fun x e => hi ⟨x, e⟩).symm
  simp only [State.withUnread, State.withOwn, hst, ← hkeeps.tone]

/-- Neither does a slot. -/
theorem slotStep_withOwn (s : State) (n : Nat) (k : InPort 16) (p : BootPhase) :
    ∃ t, slotStep s = .next t ∧ slotStep (s.withOwn n k p) = .next (t.withOwn n k p) := by
  obtain ⟨hs, h⟩ | ⟨hs, hf, h⟩ | ⟨w, i, hs, hf, hd, h⟩ | ⟨w, e, hs, hf, hd, h⟩ := slotStep_cases s
  · exact ⟨s, h, if_pos hs⟩
  · exact ⟨_, h, slotStep_of_fetch_eq_none (s := s.withOwn n k p) hs hf⟩
  · obtain ⟨t, ht, ht'⟩ := exec_withOwn i s n k p
    have hcur : (s.withOwn n k p).current = some i := State.current_eq_some_iff.2 ⟨w, hf, hd⟩
    exact ⟨t, h.trans ht, (slotStep_of_current (s := s.withOwn n k p) hs hcur).trans ht'⟩
  · exact ⟨_, h, slotStep_of_decode_error (s := s.withOwn n k p) hs hf hd⟩

/-- A slot leaves the MODEL's own fields and the parameters. -/
theorem withOwn_of_slotStep {s t : State} (h : slotStep s = .next t) : t.withOwn s.slot s.keysIn s.phase = t := by
  obtain ⟨t', ht, ht'⟩ := slotStep_withOwn s s.slot s.keysIn s.phase
  rw [State.withOwn_self] at ht'
  cases h.symm.trans ht
  exact Host.Outcome.next.inj (ht'.symm.trans h)

end Sys2Proof.Machine

namespace Sys2Proof.Proofs.Unread

open Sys2Proof Sys2Proof.Machine

/-- Settles O54: ST and the tone latch are among the unread fields, and every instruction leaves the others. -/
theorem soundIsNeverRead : Obligations.SoundIsNeverRead := by
  intro i s z b
  obtain ⟨t, ht, ht'⟩ := exec_withUnread i s { s with st := z, tone := b }
  have hkeeps := Instr.Keeps.of_exec ht
  refine ⟨t, ht, ht'.trans (congrArg Host.Outcome.next ?_)⟩
  simp only [State.withUnread, ← hkeeps.slot, ← hkeeps.keysIn, ← hkeeps.phase]

end Sys2Proof.Proofs.Unread
end

section
/-! PROOFS. IPT steps are one FrameTick: the slots of a batch against the steps of the model, halts inside the batch
included (45_timers_and_scheduler.md R195, R198). -/

namespace Sys2Proof.Machine

theorem slotStep_params {s t : State} (h : slotStep s = .next t) : t.params = s.params := by
  obtain ⟨-, h'⟩ | ⟨-, -, h'⟩ | ⟨w, i, -, -, -, h'⟩ | ⟨w, e, -, -, -, h'⟩ := slotStep_cases s
  · cases h.symm.trans h'
    rfl
  · cases h.symm.trans h'
    rfl
  · exact (Instr.Keeps.of_exec (h'.symm.trans h)).params
  · cases h.symm.trans h'
    rfl

/-- A slot of a batch: the batch ends there when it halts the machine. -/
theorem runSlots_succ {s t : State} (h : slotStep s = .next t) (n : Nat) :
    runSlots (n + 1) s = if t.status = .halted then .next t else runSlots n t := by
  simp only [runSlots, h]

/-- A batch leaves the MODEL's own fields. -/
theorem withOwn_of_runSlots {n : Nat} {s r : State} (h : runSlots n s = .next r) :
    r.withOwn s.slot s.keysIn s.phase = r := by
  induction n generalizing s with
  | zero =>
    cases h
    rfl
  | succ n ih =>
    obtain ⟨t, ht, -⟩ := slotStep_withOwn s s.slot s.keysIn s.phase
    have hown := withOwn_of_slotStep ht
    rw [runSlots_succ ht] at h
    split_ifs at h with hhalt
    · cases h
      exact hown
    · have hrest := ih h
      rw [← hown] at hrest
      exact hrest

/-- What FrameTick does after its batch: steps (c) and (d), unless the batch has halted the machine. -/
def State.finishTick (r : State) : State :=
  if r.status = .halted then r else r.timerTick.latchTone

theorem State.finishTick_withOwn (r : State) (n : Nat) (k : InPort 16) (p : BootPhase) :
    (r.withOwn n k p).finishTick = r.finishTick.withOwn n k p := by
  unfold State.finishTick
  rw [apply_ite (fun t : State => t.withOwn n k p)]
  rfl

theorem frameTick_of_runSlots {s r : State} {k : Word} (hs : s.status ≠ .halted)
    (h : runSlots s.params.ipt (s.latchKeys k) = .next r) : frameTick k s = .next r.finishTick := by
  rw [frameTick, if_neg hs, h]
  exact (apply_ite Host.Outcome.next _ _ _).symm

theorem core_run_succ {s t : State} (h : step s = .next t) (n : Nat) : core.run (n + 1) s = core.run n t := by
  have hstep : core.step s = .next t := h
  simp only [Host.Core.run, hstep]

/-- `n` slots of a batch from `w` and `n` steps from `a` come to the same end of the tick, the steps with port `k` and
phase `p`, and at position 0 unless the batch halts. -/
def SameTickEnd (n : Nat) (w a : State) (k : InPort 16) (p : BootPhase) : Prop :=
  ∃ r q, runSlots n w = .next r ∧ core.run n a = .next (r.finishTick.withOwn q k p) ∧ (r.status ≠ .halted → q = 0)

/-- One more slot before `n` that come to the same end: the step runs that slot, and its end is where the others
begin. -/
theorem sameTickEnd_succ {n m : Nat} {w a : State} {k : InPort 16} {p : BootPhase}
    (hrest : ∀ w' : State, w'.status ≠ .halted → w'.params = w.params →
      SameTickEnd n w' (w'.withOwn m k p).endSlot k p)
    (ha : a.status ≠ .halted) (hipt : a.params.ipt ≠ 0) (hbegin : a.beginSlot = w.withOwn m k p) :
    SameTickEnd (n + 1) w a k p := by
  obtain ⟨w', hw, hw'⟩ := slotStep_withOwn w m k p
  have hstep : step a = .next (w'.withOwn m k p).endSlot := step_of_slotStep ha hipt (hbegin ▸ hw')
  unfold SameTickEnd
  rw [core_run_succ hstep, runSlots_succ hw]
  by_cases hhalt : w'.status = .halted
  · refine ⟨w', m, if_pos hhalt, ?_, fun h => absurd hhalt h⟩
    rw [State.endSlot_of_halted (s := w'.withOwn m k p) hhalt, run_of_halted (s := w'.withOwn m k p) hhalt,
      State.finishTick, if_pos hhalt]
  · rw [if_neg hhalt]
    exact hrest w' hhalt (slotStep_params hw)

/-- The rest of a tick after a slot that did not halt the machine. -/
theorem sameTickEnd_endSlot (n : Nat) {m : Nat} {w : State} (k : InPort 16) (p : BootPhase) (hs : w.status ≠ .halted)
    (hm : m + 1 + n = w.params.ipt) : SameTickEnd n w (w.withOwn m k p).endSlot k p := by
  induction n generalizing m w with
  | zero =>
    have hlast : ¬ m + 1 < w.params.ipt := by omega
    refine ⟨w, 0, rfl, ?_, fun _ => rfl⟩
    rw [State.endSlot_of_last (s := w.withOwn m k p) hs hlast, State.finishTick, if_neg hs]
    rfl
  | succ n ih =>
    have hlt : m + 1 < w.params.ipt := by omega
    rw [State.endSlot_of_lt (s := w.withOwn m k p) hs hlt]
    refine sameTickEnd_succ (m := m + 1) ?_ hs (by change w.params.ipt ≠ 0; omega) ?_
    · intro w' hw' hparams
      exact ih hw' (by rw [hparams]; omega)
    · exact State.beginSlot_of_slot_ne_zero (by change m + 1 ≠ 0; omega)

/-- A whole tick. -/
theorem sameTickEnd_of_slot_eq_zero {s : State} (hs : s.status ≠ .halted) (h0 : s.slot = 0) (hipt : 0 < s.params.ipt) :
    SameTickEnd s.params.ipt (s.latchKeys s.nextKeys) s s.keysIn.advance .ticking := by
  obtain ⟨n, hn⟩ := Nat.exists_eq_add_one_of_ne_zero hipt.ne'
  rw [hn]
  refine sameTickEnd_succ (m := s.slot) ?_ hs hipt.ne' (State.beginSlot_of_slot_eq_zero h0)
  intro w hw hparams
  refine sameTickEnd_endSlot n _ _ hw ?_
  rw [hparams, State.latchKeys_params, hn, h0]
  omega

end Sys2Proof.Machine

namespace Sys2Proof.Proofs.FrameTick

open Sys2Proof Sys2Proof.Machine

/-- Settles O12: the steps and the batch come to the same end of the tick, and the batch leaves the MODEL's own
fields. -/
theorem slotsMakeFrameTick : Obligations.SlotsMakeFrameTick := by
  intro s hs h0 hipt
  obtain ⟨r, q, hslots, hrun, hq⟩ := sameTickEnd_of_slot_eq_zero hs h0 hipt
  have hown := withOwn_of_runSlots hslots
  refine ⟨_, hrun, ?_, rfl, ?_⟩
  · have hfinish := r.finishTick_withOwn s.slot s.keysIn s.phase
    rw [frameTick_of_runSlots hs hslots, ← h0]
    exact congrArg Host.Outcome.next ((congrArg State.finishTick hown).symm.trans hfinish)
  · intro ht
    refine hq fun hr => ht ?_
    simp [State.finishTick, hr, State.withOwn]

end Sys2Proof.Proofs.FrameTick
end

section
/-! PROOFS. Stores and loads from `I` on, and a fetch of what was stored (42_index_and_memory.md R144 to R146,
20_memory.md R63). -/

namespace Sys2Proof.Machine

/-- A guarded store whose bytes fit: byte `k` stands at `I + k`, every other byte and field but `pc` is as before. -/
theorem withStore_of_fits {bytes : List Byte} {s : State} (hw : s.memory.wf = true)
    (hfit : s.i.toNat + bytes.length ≤ memorySize) :
    ∃ t, withStore bytes s = .next t ∧
      (∀ k (hk : k < bytes.length), t.memory.read (s.i.toNat + k) = bytes[k]) ∧
      (∀ a : Nat, ¬ (s.i.toNat ≤ a ∧ a < s.i.toNat + bytes.length) → t.memory.read a = s.memory.read a) ∧
      t = { s with memory := t.memory, pc := s.pc + 2 } ∧ t.memory.wf = true := by
  obtain ⟨-, m, hm, h⟩ | ⟨hbad, -⟩ := withStore_cases bytes s
  · obtain ⟨hwf, hread⟩ := Memory.storeN_spec hm hw
    refine ⟨_, h, ?_, ?_, rfl, hwf⟩
    · intro k hk
      simp [hread, hk]
    · intro a ha
      exact (hread a).trans (dif_neg ha)
  · have hok := (rangeOk_iff s.i bytes.length).2 (.inr hfit)
    cases hbad.symm.trans hok

@[simp] theorem decimalDigits_length (a : Byte) : (decimalDigits a).length = 3 := rfl

/-- Byte `r` of Fx55's operand is `V[r]`. -/
theorem State.regsUpTo_getElem (s : State) (x r : RegNum) (hr : r.val < (s.regsUpTo x).length) :
    (s.regsUpTo x)[r.val] = s.reg r := by
  simp [State.regsUpTo, State.reg]

/-- Fx55 in range (R145). -/
theorem exec_storeRegs_of_fits {s : State} {x : RegNum} (hw : s.memory.wf = true) (hfit : s.i.toNat + x.val ≤ 0xFFF) :
    ∃ t, exec (.storeRegs x) s = .next t ∧
      (∀ r : RegNum, r ≤ x → t.memory.read (s.i.toNat + r.val) = s.reg r) ∧
      (∀ a : Nat, ¬ (s.i.toNat ≤ a ∧ a ≤ s.i.toNat + x.val) → t.memory.read a = s.memory.read a) ∧
      t = { s with memory := t.memory, pc := s.pc + 2 } ∧ t.memory.wf = true := by
  have hlen := s.regsUpTo_length x
  obtain ⟨t, h, hread, hother, hframe⟩ := withStore_of_fits (bytes := s.regsUpTo x) hw
    (by rw [hlen, memorySize]; omega)
  refine ⟨t, h, ?_, ?_, hframe⟩
  · intro r hr
    have hlt : r.val < (s.regsUpTo x).length := by
      rw [hlen]
      exact Nat.lt_succ_of_le hr
    rw [hread r.val hlt, State.regsUpTo_getElem]
  · intro a ha
    exact hother a (by rw [hlen]; omega)

/-- Fx65 in range (R146). -/
theorem exec_loadRegs_of_fits {s : State} {x : RegNum} (hfit : s.i.toNat + x.val ≤ 0xFFF) :
    exec (.loadRegs x) s = .next (s.setRegsFrom 0 (s.bytesAtI (x.val + 1))).advance := by
  obtain ⟨-, h⟩ | ⟨hbad, -⟩ := withLoad_cases (x.val + 1) s fun bytes => (s.setRegsFrom 0 bytes).advance
  · exact h
  · rw [State.outOfRange_eq_none (.inr (by omega))] at hbad
    cases hbad

/-- Register `r` after Fx65's writes. -/
theorem State.setRegsFrom_bytesAtI_reg (s : State) (x r : RegNum) :
    (s.setRegsFrom 0 (s.bytesAtI (x.val + 1))).reg r =
      if r ≤ x then s.memory.read (s.i.toNat + r.val) else s.reg r := by
  rw [State.setRegsFrom_reg]
  have hiff : (0 ≤ r.val ∧ r.val < 0 + (s.bytesAtI (x.val + 1)).length) ↔ r ≤ x := by
    rw [State.bytesAtI_length, Fin.le_def]
    omega
  by_cases hr : r ≤ x
  · rw [if_pos hr, dif_pos (hiff.2 hr)]
    simp [State.bytesAtI]
  · rw [if_neg hr, dif_neg (mt hiff.1 hr)]

end Sys2Proof.Machine

namespace Sys2Proof.Proofs.Store

open Sys2Proof Sys2Proof.Machine

/-- Settles O39: the three digits are the bytes of the guarded store. -/
theorem storeDecimalDigits : Obligations.StoreDecimalDigits := by
  intro s x hw hi
  have ha := (s.reg x).isLt
  obtain ⟨t, h, hread, hother, hframe⟩ := withStore_of_fits (bytes := decimalDigits (s.reg x)) hw
    (by rw [decimalDigits_length, memorySize]; omega)
  refine ⟨t, h, ?_, ?_, ?_, ?_, hframe⟩
  · exact (congrArg BitVec.toNat (hread 0 (by simp))).trans (Nat.mod_eq_of_lt (by omega))
  · exact (congrArg BitVec.toNat (hread 1 (by simp))).trans (Nat.mod_eq_of_lt (by omega))
  · exact (congrArg BitVec.toNat (hread 2 (by simp))).trans (Nat.mod_eq_of_lt (by omega))
  · intro a ha
    exact hother a (by rw [decimalDigits_length]; omega)

/-- Settles O40. -/
theorem storeRegisters : Obligations.StoreRegisters := by
  intro s x hw hfit
  exact exec_storeRegs_of_fits hw hfit

/-- Settles O41: the bytes at `I` go to the registers up to `x`, and the rest of the state stands. -/
theorem loadRegisters : Obligations.LoadRegisters := by
  intro s x hfit
  refine ⟨_, exec_loadRegs_of_fits hfit, s.setRegsFrom_bytesAtI_reg x, ?_⟩
  rw [State.setRegsFrom_eq]
  rfl

/-- Settles O42: the fetch is the word of two bytes that Fx55 has stored. -/
theorem fetchSeesStore : Obligations.FetchSeesStore := by
  intro s x r q a hw hfit hq hrq ha
  obtain ⟨t, h, hread, -⟩ := exec_storeRegs_of_fits (x := x) hw hfit
  have hqx : q.val ≤ x.val := hq
  have hr : r ≤ x := by
    rw [Fin.le_def]
    omega
  refine ⟨t, h, ?_⟩
  rw [t.memory.fetch_of_le (by omega), ha, hread r hr, Nat.add_assoc, hrq, hread q hq]

end Sys2Proof.Proofs.Store
end

section
/-! PROOFS. Drawing is the exclusive OR of the clipped sprite, and drawing twice undoes it (43_display.md R161 to
R164). -/

namespace Sys2Proof.Machine

/-- Row `k` of the sprite at `I`. -/
theorem State.bytesAtI_getD {s : State} {len k : Nat} (hk : k < len) :
    (s.bytesAtI len).getD k 0 = s.memory.read (s.i.toNat + k) := by
  simp [State.bytesAtI, List.getD, hk]

/-- The statements' picture of a sprite is the picture of the rows a draw reads at `I` (R162 to R164). -/
theorem spritePicture_bytesAtI (s : State) (x y : RegNum) (n px py : Nat) :
    spritePicture (s.anchorX x) (s.anchorY y) (s.bytesAtI n) px py = s.spriteAt x y n px py := by
  simp only [spritePicture, State.spriteAt, State.anchorX, State.anchorY, State.bytesAtI_length]
  by_cases hrow : (s.reg y).toNat % 32 ≤ py ∧ py < (s.reg y).toNat % 32 + n
  · rw [State.bytesAtI_getD (by omega)]
  · rw [decide_eq_false (by tauto), Bool.false_and, Bool.false_and]

/-- The display after a draw, pixel by pixel. -/
theorem State.drawSprite_pixel (s : State) (x y : RegNum) (n px py : Nat) :
    (s.drawSprite x y (s.bytesAtI n)).display.pixel px py =
      (s.display.pixel px py ^^ s.spriteAt x y n px py) := by
  rw [← spritePicture_bytesAtI]
  exact (blitRows_spec (s.anchorX x) (s.bytesAtI n) (s.anchorY y) ⟨s.display, false⟩).1 px py

/-- A draw collides where a sprite bit meets a set pixel. -/
def State.collides (s : State) (x y : RegNum) (n : Nat) : Prop :=
  ∃ px py : Nat, s.display.pixel px py = true ∧ s.spriteAt x y n px py = true

/-- The flag after a draw tells the collision. -/
theorem State.drawSprite_flag (s : State) (x y : RegNum) (n : Nat) :
    ∃ hit : Bool, (s.drawSprite x y (s.bytesAtI n)).reg flagReg = flagByte hit ∧ (hit = true ↔ s.collides x y n) := by
  refine ⟨_, State.setReg_reg_same _ _ _, ?_⟩
  rw [(blitRows_spec (s.anchorX x) (s.bytesAtI n) (s.anchorY y) ⟨s.display, false⟩).2]
  simp only [spritePicture_bytesAtI, State.collides, Bool.false_eq_true, false_or]

theorem State.drawSprite_flag_eq_one_iff (s : State) (x y : RegNum) (n : Nat) :
    (s.drawSprite x y (s.bytesAtI n)).reg flagReg = 1 ↔ s.collides x y n := by
  obtain ⟨hit, hflag, hiff⟩ := s.drawSprite_flag x y n
  rw [hflag, ← hiff]
  cases hit <;> decide

theorem State.drawSprite_flag_eq_zero_iff (s : State) (x y : RegNum) (n : Nat) :
    (s.drawSprite x y (s.bytesAtI n)).reg flagReg = 0 ↔ ¬ s.collides x y n := by
  obtain ⟨hit, hflag, hiff⟩ := s.drawSprite_flag x y n
  rw [hflag, ← hiff]
  cases hit <;> decide

/-- A draw whose rows are in range (R161). -/
theorem exec_drw_of_fits {s : State} (x y : RegNum) {n : Fin 16} (hfit : n.val = 0 ∨ s.i.toNat + n.val ≤ 0x1000) :
    exec (.drw x y n) s = .next (s.drawSprite x y (s.bytesAtI n.val)) := by
  obtain ⟨-, h⟩ | ⟨hbad, -⟩ := withLoad_cases n.val s (s.drawSprite x y)
  · exact h
  · rw [State.outOfRange_eq_none hfit] at hbad
    cases hbad

/-- The sprite depends on the anchor, `I` and memory only. -/
theorem State.spriteAt_congr {s t : State} {x y : RegNum} (hx : t.anchorX x = s.anchorX x)
    (hy : t.anchorY y = s.anchorY y) (hi : t.i = s.i) (hm : t.memory = s.memory) (n px py : Nat) :
    t.spriteAt x y n px py = s.spriteAt x y n px py := by
  have hbytes : t.bytesAtI n = s.bytesAtI n := by rw [State.bytesAtI, State.bytesAtI, hi, hm]
  rw [← spritePicture_bytesAtI, ← spritePicture_bytesAtI, hx, hy, hbytes]

end Sys2Proof.Machine

namespace Sys2Proof.Proofs.Draw

open Sys2Proof Sys2Proof.Machine

/-- Settles O44: the blit of the bytes at `I` is the XOR with the picture, and its hit flag the collision. -/
theorem drawIsClippedXor : Obligations.DrawIsClippedXor := by
  intro s x y n hfit
  refine ⟨_, exec_drw_of_fits x y hfit, ?_, ?_, ?_, ?_, rfl⟩
  · intro px py _ _
    exact s.drawSprite_pixel x y n.val px py
  · exact (s.drawSprite_flag_eq_one_iff x y n.val).2
  · exact (s.drawSprite_flag_eq_zero_iff x y n.val).2
  · intro r hr
    exact (State.setReg_reg _ _ _ _).trans (if_neg hr)

/-- Settles O45: the second draw XORs the same picture, and collides where the first has set a clear pixel. -/
theorem drawTwiceRestores : Obligations.DrawTwiceRestores := by
  intro s t x y n hfit ht hx hy
  have hdraw := exec_drw_of_fits x y hfit
  obtain rfl : s.drawSprite x y (s.bytesAtI n.val) = t := Host.Outcome.next.inj (hdraw.symm.trans ht)
  have hsprite := State.spriteAt_congr hx hy rfl rfl n.val
  refine ⟨_, exec_drw_of_fits x y hfit, ?_, ?_⟩
  · apply Display.ext_of_pixel
    intro px py _ _
    rw [State.drawSprite_pixel, State.drawSprite_pixel, hsprite, Bool.xor_assoc, Bool.xor_self, Bool.xor_false]
  · rw [State.drawSprite_flag_eq_one_iff, State.collides]
    simp only [hsprite, State.drawSprite_pixel]
    refine exists_congr fun px => exists_congr fun py => and_congr_left fun hbit => ?_
    rw [hbit, Bool.xor_true, Bool.not_eq_true']

end Sys2Proof.Proofs.Draw
end

section
/-! PROOFS. Reset from any state and the load port (10_state.md R36, 20_memory.md R66, 70_reset_and_hazards.md R250). -/

namespace Sys2Proof.Machine

/-- What an unlisted address reads as: the default font in its place and 0 elsewhere (R36, R52). -/
theorem Memory.unlisted_eq (a : Nat) :
    Memory.unlisted a = if 0x050 ≤ a ∧ a < 0x0A0 then standardFont.toList.getD (a - 0x050) 0 else 0 := by
  unfold Memory.unlisted
  change (if h : 0x050 ≤ a ∧ a < 0x0A0 then standardFont[a - 0x050] else 0) = _
  split_ifs with h
  · have hlt : a - 0x050 < standardFont.toList.length := by
      rw [Vector.length_toList]
      omega
    exact (List.getD_eq_getElem _ 0 hlt).symm
  · rfl

/-- Memory after reset: the parameters' font in its place and 0 elsewhere, in canonical form (R36, R52). -/
theorem State.resetWith_memory (c : Config) :
    (State.resetWith c).memory.wf = true ∧ ∀ a : Nat, (State.resetWith c).memory.read a =
      if 0x050 ≤ a ∧ a < 0x0A0 then c.font.toList.getD (a - 0x050) 0 else 0 := by
  have hlen : c.font.toList.length = 80 := c.font.length_toList
  obtain ⟨hwf, hread⟩ := writeFont_spec fontBase c.font.toList [] rfl (by rw [hlen]; decide)
  refine ⟨hwf, fun a => (hread a).trans ?_⟩
  rw [hlen]
  change (if 0x050 ≤ a ∧ a < 0x0A0 then c.font.toList.getD (a - 0x050) 0 else Memory.unlisted a) = _
  split_ifs with hfont
  · rfl
  · rw [Memory.unlisted_eq, if_neg hfont]

/-- A reset state meets the invariant, whatever the parameters. -/
theorem State.Inv.applyReset (s : State) : s.applyReset.Inv :=
  { State.Inv.reset with
    memoryWf := (State.resetWith_memory s.params).1
    slotBound := .inl rfl
    waitingAtKeyWait := nofun }

/-- With the default font nothing differs from the reset content. -/
theorem State.resetWith_default : State.resetWith Config.default = State.reset := by
  obtain ⟨hwf, hread⟩ := State.resetWith_memory Config.default
  have hmem : (State.resetWith Config.default).memory = [] :=
    Memory.ext_of_read hwf rfl fun a => (hread a).trans (Memory.unlisted_eq a).symm
  change { State.reset with memory := (State.resetWith Config.default).memory } = State.reset
  rw [hmem]
  rfl

end Sys2Proof.Machine

namespace Sys2Proof.Proofs.Ports

open Sys2Proof Sys2Proof.Machine

/-- Settles O55: the fields of the reset state, and its memory by the laws of the font. -/
theorem resetFromAnyState : Obligations.ResetFromAnyState := by
  refine ⟨State.resetWith_default, fun s => ?_⟩
  refine ⟨_, rfl, ?_, rfl, rfl, ?_, rfl, rfl, rfl, (State.resetWith_memory s.params).2, blankDisplay_pixel, rfl,
    rfl, rfl, rfl, rfl, State.Inv.applyReset s, rfl, rfl, rfl, rfl, rfl⟩
  · intro r
    exact Vector.getElem_replicate r.isLt
  · intro k
    exact Vector.getElem_replicate k.isLt

/-- Settles O56: a program that fits is one run of stores, and one that does not leaves memory. -/
theorem loadIsAllOrNothing : Obligations.LoadIsAllOrNothing := by
  intro s bytes offset hw hphase
  constructor
  · intro hfit
    obtain ⟨m, hm⟩ := Memory.storeN_isSome s.memory offset bytes (.inr hfit)
    obtain ⟨hwf, hread⟩ := Memory.storeN_spec hm hw
    refine ⟨{ s with memory := m, phase := .loaded }, ?_, ?_, rfl, hwf⟩
    · simp only [State.load, hphase, ne_eq, not_true, if_false, if_neg (Nat.not_lt.2 hfit), hm]
    · intro a
      refine (hread a).trans ?_
      split_ifs with ha
      · exact (List.getD_eq_getElem bytes 0 (by omega)).symm
      · rfl
  · intro hbig
    simp only [State.load, hphase, ne_eq, not_true, if_false, if_pos hbig]

end Sys2Proof.Proofs.Ports
end

section
/-! PROOFS. Single instructions: the return after a call, the indexed jump, register arithmetic and its flags, the
index register, keys and timers (40_control_transfer.md R90 to R97, 41_alu.md R112 to R123, 42_index_and_memory.md R142,
R143, 44_keypad_and_timer_instructions.md R170 to R176). -/

namespace Sys2Proof.Machine

/-- The indexed jump's sum is exact: 12 bits and 8 bits stay within 16 (R97). -/
theorem indexedTarget_toNat (s : State) (nnn : Addr12) :
    (addrOperand nnn + s.regWord 0).toNat = nnn.toNat + (s.reg 0).toNat := by
  have hn := nnn.isLt
  have hv := (s.reg 0).isLt
  simp only [addrOperand, State.regWord, BitVec.toNat_add, BitVec.toNat_setWidth]
  omega

/-- A byte difference is the exact one modulo 256 (R117, R119). -/
theorem byte_sub_eq_ofNat_mod (a b : Byte) : a - b = BitVec.ofNat 8 ((a.toNat + 256 - b.toNat) % 256) := by
  have hb := b.isLt
  apply BitVec.eq_of_toNat_eq
  rw [BitVec.toNat_sub, BitVec.toNat_ofNat]
  omega

/-- Not-borrow as the byte the comparison decides (R117, R119, R122). -/
theorem notBorrowFlag_eq_ite (a b : Byte) : notBorrowFlag a b = if a.toNat ≥ b.toNat then 1 else 0 := by
  simp only [notBorrowFlag, flagByte, decide_eq_true_eq, ge_iff_le]

/-- A right shift by one is a halving (R118). -/
theorem byte_shiftRight_one (a : Byte) : a >>> 1 = BitVec.ofNat 8 (a.toNat / 2) := by
  apply BitVec.eq_of_toNat_eq
  have ha := a.isLt
  rw [BitVec.toNat_ushiftRight, Nat.shiftRight_eq_div_pow, BitVec.toNat_ofNat]
  omega

/-- A left shift by one is a doubling modulo 256 (R120). -/
theorem byte_shiftLeft_one (a : Byte) : a <<< 1 = BitVec.ofNat 8 (a.toNat * 2 % 256) := by
  apply BitVec.eq_of_toNat_eq
  rw [BitVec.toNat_shiftLeft, Nat.shiftLeft_eq, BitVec.toNat_ofNat]
  omega

/-- The bit a right shift pushes out tells an odd number (R118). -/
theorem shiftOutLow_eq_ite (a : Byte) : shiftOutLow a = if a.toNat % 2 = 1 then 1 else 0 := by
  apply BitVec.eq_of_toNat_eq
  rw [shiftOutLow, BitVec.toNat_and, apply_ite BitVec.toNat]
  change a.toNat &&& 1 = if a.toNat % 2 = 1 then 1 else 0
  rw [Nat.and_one_is_mod]
  split_ifs <;> omega

/-- The bit a left shift pushes out tells a number from 128 on (R120). -/
theorem shiftOutHigh_eq_ite (a : Byte) : shiftOutHigh a = if a.toNat ≥ 128 then 1 else 0 := by
  have ha := a.isLt
  apply BitVec.eq_of_toNat_eq
  rw [shiftOutHigh, BitVec.toNat_ushiftRight, Nat.shiftRight_eq_div_pow, apply_ite BitVec.toNat]
  change a.toNat / 128 = if a.toNat ≥ 128 then 1 else 0
  split_ifs <;> omega

/-- The shifted operand by SHIFT_SRC, as a number (R118, R120). -/
theorem State.shiftOperand_toNat {s : State} {x y : RegNum} {a : Nat}
    (h : s.params.shiftSrc = .x ∧ a = (s.reg x).toNat ∨ s.params.shiftSrc = .y ∧ a = (s.reg y).toNat) :
    (s.shiftOperand x y).toNat = a := by
  obtain ⟨hsrc, rfl⟩ | ⟨hsrc, rfl⟩ := h <;> simp [State.shiftOperand, hsrc]

/-- The flag is what remains in VF, and the result in every other destination (R123). -/
theorem State.writeFlagged_reg {s t : State} {x : RegNum} {r f : Byte}
    (h : (Host.Outcome.next (s.writeFlagged x r f) : Result) = .next t) :
    t.reg flagReg = f ∧ (x ≠ flagReg → t.reg x = r) := by
  cases h
  constructor
  · exact State.setReg_reg_same _ _ _
  · intro hx
    exact ((State.setReg_reg _ _ _ _).trans (if_neg hx)).trans (State.setReg_reg_same _ _ _)

/-- One sample of the port, masked, in the destination (R121). -/
theorem exec_rnd (x : RegNum) (nn : Byte) (s : State) :
    exec (.rnd x nn) s =
      .next { s with v := s.v.set x.val (s.nextRnd &&& nn) x.isLt, pc := s.pc + 2, rndIn := s.rndIn.advance } := rfl

/-- A byte whose bits lie in the mask is kept by it. -/
theorem and_eq_self_of_and_not_eq_zero {b mask : Byte} (h : b &&& ~~~mask = 0) : b &&& mask = b := by
  apply BitVec.eq_of_getLsbD_eq
  intro k hk
  have hbit : (b &&& ~~~mask).getLsbD k = false := by
    rw [h]
    exact BitVec.getLsbD_zero
  rw [BitVec.getLsbD_and, BitVec.getLsbD_not, decide_eq_true hk, Bool.true_and] at hbit
  rw [BitVec.getLsbD_and]
  revert hbit
  cases b.getLsbD k <;> cases mask.getLsbD k <;> decide

/-- The index sum modulo 65536 (R142). -/
theorem index_add_regWord (s : State) (x : RegNum) :
    s.i + s.regWord x = BitVec.ofNat 16 ((s.i.toNat + (s.reg x).toNat) % 65536) := by
  apply BitVec.eq_of_toNat_eq
  have hv := (s.reg x).isLt
  simp only [State.regWord, BitVec.toNat_add, BitVec.toNat_setWidth, BitVec.toNat_ofNat]
  omega

/-- The glyph address stays below 65536 for every byte (R143). -/
theorem glyphAddr_eq_ofNat (s : State) (x : RegNum) :
    s.glyphAddr x = BitVec.ofNat 16 (0x50 + (s.reg x).toNat * 5) := by
  apply BitVec.eq_of_toNat_eq
  have hv := (s.reg x).isLt
  simp only [State.glyphAddr, State.regWord, BitVec.toNat_add, BitVec.toNat_mul, BitVec.toNat_setWidth,
    BitVec.ofNat_eq_ofNat, BitVec.toNat_ofNat]
  omega

/-- A skip on the complement of a bit (R171). -/
theorem State.skipIf_not (s : State) (c : Bool) :
    s.skipIf (!c) = { s with pc := if c = true then s.pc + 2 else s.pc + 4 } := by
  cases c <;> rfl

/-- The lowest key of a latch that is not 0. -/
theorem exists_lowestKey {keys : Word} (h : keys ≠ 0) : ∃ k, lowestKey keys = some k := by
  cases hk : lowestKey keys with
  | none => exact absurd (lowestKey_eq_none.1 hk) h
  | some k => exact ⟨k, rfl⟩

end Sys2Proof.Machine

namespace Sys2Proof.Proofs.Instructions

open Sys2Proof Sys2Proof.Machine

/-- Settles O25: the call fills the slot that the return takes back. -/
theorem returnUndoesCall : Obligations.ReturnUndoesCall := by
  intro s t nnn hsp ht
  obtain ⟨k, hk⟩ := Fin.exists_castSucc_eq.2 hsp
  have hcall := exec_call_of_push_eq_some (State.push_of_sp_eq_castSucc hk.symm (s.pc + 2)) nnn
  obtain rfl := Host.Outcome.next.inj (hcall.symm.trans ht)
  refine ⟨_, exec_ret_of_pop_eq_some (State.pop_of_sp_eq_succ (k := k) rfl), ?_, hk, rfl⟩
  exact Vector.getElem_set_self k.isLt

/-- Settles O28. -/
theorem indexedJumpAddsV0 : Obligations.IndexedJumpAddsV0 := by
  intro s nnn
  exact ⟨_, rfl, indexedTarget_toNat s nnn, rfl⟩

/-- Settles O31: one register write and the advance each. -/
theorem copyAndLogic : Obligations.CopyAndLogic := by
  intro s x y
  exact ⟨rfl, rfl, rfl, rfl⟩

/-- Settles O33: the flagged write of the difference modulo 256 and of not-borrow, minuend first. -/
theorem subtractSetsNotBorrow : Obligations.SubtractSetsNotBorrow := by
  intro s x y
  rw [← byte_sub_eq_ofNat_mod, ← byte_sub_eq_ofNat_mod, ← notBorrowFlag_eq_ite, ← notBorrowFlag_eq_ite]
  exact ⟨rfl, rfl⟩

/-- Settles O34: the flagged write of the shifted operand and of the bit pushed out. -/
theorem shiftsSetBitOut : Obligations.ShiftsSetBitOut := by
  intro s x y a h
  obtain rfl := State.shiftOperand_toNat h
  rw [← byte_shiftRight_one, ← byte_shiftLeft_one, ← shiftOutLow_eq_ite, ← shiftOutHigh_eq_ite]
  exact ⟨rfl, rfl⟩

/-- Settles O35: each of the five is one flagged write. -/
theorem flagIsWrittenLast : Obligations.FlagIsWrittenLast := by
  intro s t x y
  exact ⟨State.writeFlagged_reg, State.writeFlagged_reg, State.writeFlagged_reg, State.writeFlagged_reg,
    State.writeFlagged_reg⟩

/-- Settles O36: the sample is the oldest supplied value, and a supplied byte within the mask is the result. -/
theorem randomIsMaskedSample : Obligations.RandomIsMaskedSample := by
  intro s x nn
  refine ⟨exec_rnd x nn s, ?_, ?_⟩
  · intro b rest hpending
    constructor
    · simp [State.nextRnd, InPort.sample, hpending]
    · simp [InPort.advance, hpending]
  · intro b hb
    refine ⟨⟨[b], 0⟩, _, exec_rnd x nn _, ?_⟩
    exact (Vector.getElem_set_self x.isLt).trans (and_eq_self_of_and_not_eq_zero hb)

/-- Settles O38: both sums as numbers, the first modulo 65536 and the second below it. -/
theorem indexArithmetic : Obligations.IndexArithmetic := by
  intro s x
  rw [← index_add_regWord, ← glyphAddr_eq_ofNat]
  exact ⟨rfl, rfl⟩

/-- Settles O46: the key's bit of the latch, under the number `V[x] mod 16`. -/
theorem skipOnKey : Obligations.SkipOnKey := by
  intro s x k hk
  have hkey : s.keyDown (s.keyNumber x) = s.keys[k] := by
    rw [State.keyNumber, ← hk]
    rfl
  have hskp : exec (.skp x) s = .next (s.skipIf (s.keyDown (s.keyNumber x))) := rfl
  have hsknp : exec (.sknp x) s = .next (s.skipIf (!s.keyDown (s.keyNumber x))) := rfl
  rw [hskp, hsknp, hkey]
  exact ⟨rfl, congrArg Host.Outcome.next (s.skipIf_not s.keys[k])⟩

/-- Settles O47: one write and the advance each. -/
theorem timerMoves : Obligations.TimerMoves := by
  intro s x
  exact ⟨rfl, rfl, rfl⟩

/-- Settles O48: with the latch 0 no key is found, else the lowest key is. -/
theorem waitForKey : Obligations.WaitForKey := by
  intro s x
  constructor
  · exact exec_ldVxK_of_no_key x
  · intro hkeys
    obtain ⟨k, hk⟩ := exists_lowestKey hkeys
    obtain ⟨hdown, hlow⟩ := lowestKey_eq_some hk
    refine ⟨k, hdown, hlow, ?_⟩
    simp only [exec, execLdVxK, State.pollForKey, hk]
    rfl

end Sys2Proof.Proofs.Instructions
end
